-- ==== Sys2Proof/Word.lean ====
section
/-! DEFINITION. The words of VS64-DSB (00_scope.md section 5, "Widths"). -/

namespace Sys2Proof

/-- A byte: 8 bits, the unit of every bus transaction (20_memory.md R42). -/
abbrev Byte := BitVec 8

/-- An address: 16 bits, one byte per address; its arithmetic is modulo 2^16. -/
abbrev Addr := BitVec 16

/-- A line value: 9 bits (10_state.md R34). -/
abbrev Line := BitVec 9

/-- A command operand or the result latch: 16 bits. -/
abbrev Half := BitVec 16

/-- A command word on `CMD`: 40 bits, presented whole (30_encoding.md R60). -/
abbrev CmdWord := BitVec 40

/-- The 3-bit field `N`: an object slot or a bit index, 0..7 (30_encoding.md R62). -/
abbrev Slot := BitVec 3

end Sys2Proof
end

