-- ==== Sys2Proof/Config.lean ====
section
/-! DEFINITION. The configuration record (00_scope.md section 4; 92_eei_decisions.md "Open parameters in one
list"), the reference configuration REF, and the free values. -/

namespace Sys2Proof

/-- How a sample's two bytes become one line value (42_frame_scheduler.md R121). -/
inductive Combine where
  /-- `NINE`: the 9-bit line. -/
  | nine
  /-- `ORLOW`: the low byte with bit 7 of the high byte or-ed into bit 0. -/
  | orlow
  /-- `LOW8`: the low byte alone. -/
  | low8
  deriving DecidableEq, Repr

/-- Which raster register a sample reads first (42_frame_scheduler.md R122). -/
inductive ReadOrder where
  /-- `HI_FIRST`. -/
  | hiFirst
  /-- `LO_FIRST`. -/
  | loFirst
  deriving DecidableEq, Repr

/-- The implementation parameters. Their constraints are `ConfigWf` (Machine/Layout.lean). -/
structure Config where
  /-- `A_POS_BASE`: address of object 0's first position register. -/
  aPosBase : Addr
  /-- `A_XMSB`: the shared 9th-bit overflow register. -/
  aXmsb : Addr
  /-- `A_RASTER_HI`: the register whose bit 7 is line bit 8. -/
  aRasterHi : Addr
  /-- `A_RASTER_LO`: the register holding line bits 7:0. -/
  aRasterLo : Addr
  /-- `A_SPR_ENABLE`: the shared enable mask. -/
  aSprEnable : Addr
  /-- `A_SPR_MCM`: the shared multicolour-mode mask. -/
  aSprMcm : Addr
  /-- `A_SPR_MC0`: the first shared colour. -/
  aSprMc0 : Addr
  /-- `A_SPR_MC1`: the second shared colour. -/
  aSprMc1 : Addr
  /-- `A_SPR_COLOR_BASE`: object 0's colour register. -/
  aSprColorBase : Addr
  /-- `BANK_BASE`: base address of the bank the controller reads. -/
  bankBase : Addr
  /-- `BANK_SIZE`: size of a bank. -/
  bankSize : Nat
  /-- `SCREEN_BASE`: absolute address of the character grid. -/
  screenBase : Addr
  /-- `PTR_OFFSET`: offset of the pointer block from `SCREEN_BASE`. -/
  ptrOffset : Addr
  /-- `LINES`: number of raster lines per frame. -/
  lines : Nat
  /-- `COMBINE`. -/
  combine : Combine
  /-- `READ_ORDER`. -/
  readOrder : ReadOrder
  /-- `T_LATE`: phase-1 entry threshold of `WAITF`. -/
  tLate : Nat
  /-- `T_LOW`: phase-1 exit bound. -/
  tLow : Nat
  /-- `T_BLANK`: phase-2 threshold. -/
  tBlank : Nat
  /-- `V_FIRST`: first raster line scanned out. -/
  vFirst : Nat
  /-- `POLL_MAX`: most ticks between two consecutive line samples of `WAITF`, `none` for unbounded. No step
  reads it: it is an assumption a claim names, as `PollBound` (00_scope.md R4; 70_reset_and_hazards.md R170). -/
  pollMax : Option Nat
  deriving DecidableEq, Repr

/-- `A_PTR_BASE = SCREEN_BASE + PTR_OFFSET`, derived, not free (10_state.md R23). -/
def Config.aPtrBase (c : Config) : Addr := c.screenBase + c.ptrOffset

/-- The reference configuration REF of 00_scope.md section 4, used by the spec's test vectors. PRESUMED (log 1):
the spec takes its addresses and line count from general knowledge; no rule depends on them. -/
def Config.ref : Config where
  aPosBase := 0xD000
  aXmsb := 0xD010
  aRasterHi := 0xD011
  aRasterLo := 0xD012
  aSprEnable := 0xD015
  aSprMcm := 0xD01C
  aSprMc0 := 0xD025
  aSprMc1 := 0xD026
  aSprColorBase := 0xD027
  bankBase := 0x0000
  bankSize := 16384
  screenBase := 0x0400
  ptrOffset := 0x03F8
  lines := 312
  combine := .nine
  readOrder := .hiFirst
  tLate := 250
  tLow := 50
  tBlank := 251
  vFirst := 51
  pollMax := none

/-! The free values (the spec's *draw*s, 00_scope.md section 5): constants with no body, applied to the draw
counter of State, so nothing can be proved of what is drawn (log 7). -/

/-- The 7 bits `CTRL_HI` of one read of `RASTER_HI` (10_state.md R33). -/
opaque Config.freeCtrlHi : Nat → BitVec 7

/-- Bits 7:4 of one read of a colour cell (10_state.md R30). -/
opaque Config.freeNibble : Nat → BitVec 4

/-- The byte `BLK_ADDR` gives for a pointer outside the bank (41_sprite_engine.md R110). -/
opaque Config.freeBlock : Nat → Byte

/-- How many RASTER ticks fall after one SEQ step (00_scope.md R4). -/
opaque Config.freeTicks : Nat → Nat

end Sys2Proof
end

