-- ==== Sys2Proof/Machine/Operands.lean ====
section
/-! DEFINITION. Every operand form and every computation on operands: the effective addresses
(40_register_access.md R97), the bit operations, the clamp, the position split, the raster combination and
the block index (R96). -/

namespace Sys2Proof.Machine

/-! Effective addresses. *Absolute* is the operand `A` itself; *fixed* is a configuration constant
(`c.aSprEnable`, ...); the object-indexed forms follow. -/

/-- Object-indexed address of stride 1: `base + n` (40_register_access.md R97). -/
def eaIndexed (base : Addr) (n : Slot) : Addr := base + n.setWidth 16

/-- Address of `SPR_X[n]`: `A_POS_BASE + 2*n` (10_state.md R21). -/
def eaPosX (c : Config) (n : Slot) : Addr := c.aPosBase + 2 * n.setWidth 16

/-- Address of `SPR_Y[n]`: `A_POS_BASE + 2*n + 1` (10_state.md R21). -/
def eaPosY (c : Config) (n : Slot) : Addr := c.aPosBase + 2 * n.setWidth 16 + 1

/-- Address of `SPR_PTR[n]`: `A_PTR_BASE + n` (10_state.md R23). -/
def eaPtr (c : Config) (n : Slot) : Addr := eaIndexed c.aPtrBase n

/-- Address of `SPR_COLOR[n]`: `A_SPR_COLOR_BASE + n` (10_state.md R25). -/
def eaColor (c : Config) (n : Slot) : Addr := eaIndexed c.aSprColorBase n

/-! Bit operations on bytes (40_register_access.md R92 to R94, R96; 30_encoding.md R70, R71). -/

/-- The mask `1 << i` of bit `i`. -/
def bitMask (i : Slot) : Byte := 1#8 <<< i.toNat

/-- `v | (1 << i)`. -/
def withBit (v : Byte) (i : Slot) : Byte := v ||| bitMask i

/-- `v & ~(1 << i)`. -/
def withoutBit (v : Byte) (i : Slot) : Byte := v &&& ~~~ bitMask i

/-- Bit `i` of the byte set or cleared (41_sprite_engine.md R100). -/
def assignBit (v : Byte) (i : Slot) (flag : Bool) : Byte := if flag then withBit v i else withoutBit v i

/-- `zext_16((v >> i) & 1)` (40_register_access.md R94). -/
def testBit (v : Byte) (i : Slot) : Half := ((v >>> i.toNat) &&& 1).setWidth 16

/-! Positions (41_sprite_engine.md R103 to R105). -/

/-- `if x <s 0 then 0 else x` on 16 bits (41_sprite_engine.md R104). -/
def clampNeg (x : Half) : Half := if x.slt 0 then 0 else x

/-- `cx[7:0]` (40_register_access.md R96, truncation). -/
def posLow (cx : Half) : Byte := cx.setWidth 8

/-- `cx >u 255` (30_encoding.md R73). -/
def posHigh (cx : Half) : Bool := (255 : Half).ult cx

/-! The raster line (42_frame_scheduler.md R121; 30_encoding.md R74). -/

/-- `COMBINE(hi, lo)` (42_frame_scheduler.md R121). -/
def combineLine (mode : Combine) (hi lo : Byte) : Line :=
  match mode with
  | .nine => hi.extractLsb' 7 1 ++ lo
  | .orlow => (lo ||| (hi >>> 7)).setWidth 9
  | .low8 => lo.setWidth 9

/-- What `RASTER_LO` shows of a line: `L[7:0]` (10_state.md R32). -/
def lineLow (line : Line) : Byte := line.extractLsb' 0 8

/-- What bit 7 of `RASTER_HI` shows of a line: `L[8]` (10_state.md R33). -/
def lineHigh (line : Line) : BitVec 1 := line.extractLsb' 8 1

/-- One tick: `(L + 1) mod LINES` (42_frame_scheduler.md R120). -/
def nextLine (lines : Nat) (line : Line) : Line := BitVec.ofNat 9 ((line.toNat + 1) % lines)

/-- The line after a number of ticks. -/
def lineAfter (lines : Nat) (line : Line) : Nat → Line
  | 0 => line
  | k + 1 => nextLine lines (lineAfter lines line k)

/-- How many frames begin during a number of ticks from a line: how often `L` becomes 0 (42_frame_scheduler.md R120,
"One pass of `L` from 0 to `LINES`-1 is one *frame*"). -/
def framesAfter (lines : Nat) (line : Line) : Nat → Nat
  | 0 => 0
  | k + 1 => framesAfter lines line k + if lineAfter lines line (k + 1) = 0 then 1 else 0

/-! The block pointer (41_sprite_engine.md R110). -/

/-- `BANK_BASE <= pointer and pointer - BANK_BASE < 16384`. -/
def inBank (c : Config) (pointer : Addr) : Bool :=
  c.bankBase.ule pointer && (pointer - c.bankBase).ult 16384

/-- `off[13:6]` with `off = pointer - BANK_BASE`: the offset divided by 64, rounded down. -/
def blockIndex (c : Config) (pointer : Addr) : Byte := (pointer - c.bankBase).extractLsb' 6 8

end Sys2Proof.Machine
end

