-- ==== Sys2Proof/Syntax.lean ====
section
/-! DEFINITION. The 14 commands of VS64-DSB, one constructor per row of spec/opcode_table.json, with the
operands 30_encoding.md R61 and R83 give each. -/

namespace Sys2Proof

/-- A command and its operands. An object or bit index is a number, as in the operations of the source
("small integer 0..7"): `Instr.wellFormed` asks for at most 7, the command word has no room for more, and
the meanings refuse more (41_sprite_engine.md R113). -/
inductive Instr where
  /-- `RD addr` (40_register_access.md R90). -/
  | rd (addr : Addr)
  /-- `WR addr, value` (R91). -/
  | wr (addr : Addr) (value : Byte)
  /-- `SETB addr, bit` (R92). -/
  | setb (addr : Addr) (bit : Nat)
  /-- `CLRB addr, bit` (R93). -/
  | clrb (addr : Addr) (bit : Nat)
  /-- `TSTB addr, bit` (R94). -/
  | tstb (addr : Addr) (bit : Nat)
  /-- `SPR_EN n, flag` (41_sprite_engine.md R100). -/
  | sprEn (n : Nat) (flag : Bool)
  /-- `SPR_MC n, flag` (R101). -/
  | sprMc (n : Nat) (flag : Bool)
  /-- `SPR_BLK n, block` (R102). -/
  | sprBlk (n : Nat) (block : Byte)
  /-- `SPR_POS n, x, y`, with `x` and `y` signed two's complement (R103). -/
  | sprPos (n : Nat) (x : Half) (y : Half)
  /-- `SPR_COL n, colour` (R108). -/
  | sprCol (n : Nat) (colour : Byte)
  /-- `SPR_CC a, b` (R109). -/
  | sprCc (ca : Byte) (cb : Byte)
  /-- `BLK_ADDR pointer` (R110). -/
  | blkAddr (pointer : Addr)
  /-- `RLINE` (42_frame_scheduler.md R122). -/
  | rline
  /-- `WAITF` (42_frame_scheduler.md R124). -/
  | waitf
  deriving DecidableEq, Repr

end Sys2Proof
end

