-- ==== Sys2Proof/WellFormed.lean ====
section
/-! DEFINITION. Which commands a command word can carry: object and bit indices are 0..7
(30_encoding.md R62; 41_sprite_engine.md R113). The other operands have exactly the width of their
field. The well-formedness of a configuration is `ConfigWf` in Machine/Layout.lean. -/

namespace Sys2Proof

/-- The command fits its command word: "bit-index < 8", object index "0..7". -/
def Instr.wellFormed : Instr → Bool
  | .rd _ => true
  | .wr _ _ => true
  | .setb _ bit => decide (bit < 8)
  | .clrb _ bit => decide (bit < 8)
  | .tstb _ bit => decide (bit < 8)
  | .sprEn n _ => decide (n < 8)
  | .sprMc n _ => decide (n < 8)
  | .sprBlk n _ => decide (n < 8)
  | .sprPos n _ _ => decide (n < 8)
  | .sprCol n _ => decide (n < 8)
  | .sprCc _ _ => true
  | .blkAddr _ => true
  | .rline => true
  | .waitf => true

end Sys2Proof
end

