-- ==== Sys2Proof/Decode.lean ====
section
/-! DEFINITION. The decoder, total on every 40-bit word (30_encoding.md R60 to R64, R80, R81), the table
of matches and masks of R64, and the encoder. -/

namespace Sys2Proof

/-- Why a word is reserved (30_encoding.md R80). -/
inductive Reserved where
  /-- `OP` is 0xE or 0xF. -/
  | opUnassigned
  /-- `Z` is 1. -/
  | zIsOne
  /-- A must-be-zero field of the selected format is not zero. -/
  | fieldNotZero
  deriving DecidableEq, Repr

/-- Field `OP`, bits 39:36 (30_encoding.md R60). -/
def fieldOp (w : CmdWord) : BitVec 4 := w.extractLsb' 36 4
/-- Field `Z`, bit 35. -/
def fieldZ (w : CmdWord) : BitVec 1 := w.extractLsb' 35 1
/-- Field `N`, bits 34:32. -/
def fieldN (w : CmdWord) : Slot := w.extractLsb' 32 3
/-- Field `A`, bits 31:16. -/
def fieldA (w : CmdWord) : Half := w.extractLsb' 16 16
/-- Field `B`, bits 15:0. -/
def fieldB (w : CmdWord) : Half := w.extractLsb' 0 16

/-- The low byte of an operand field, `A[7:0]` or `B[7:0]`. -/
def lowByte (h : Half) : Byte := h.extractLsb' 0 8
/-- The high byte of an operand field, `A[15:8]` or `B[15:8]`. -/
def highByte (h : Half) : Byte := h.extractLsb' 8 8

/-- The word with the given fields: `OP`, `Z = 0`, `N`, `A`, `B` from bit 39 down (30_encoding.md R60). -/
def wordOf (op : BitVec 4) (n : Slot) (a b : Half) : CmdWord := op ++ 0#1 ++ n ++ a ++ b

/-- An operation whose must-be-zero fields are zero (`mbz`), or a reserved word (30_encoding.md R61, R80). -/
def formatted (mbz : Bool) (i : Instr) : Except Reserved Instr :=
  if mbz then .ok i else .error .fieldNotZero

/-- The decoder, on the fields of a word (30_encoding.md R61 to R63). -/
def decodeFields (op : BitVec 4) (n : Slot) (a b : Half) : Except Reserved Instr :=
  match op.toNat with
  | 0x0 => formatted (n == 0 && b == 0) (.rd a)
  | 0x1 => formatted (n == 0 && highByte b == 0) (.wr a (lowByte b))
  | 0x2 => formatted (b == 0) (.setb a n.toNat)
  | 0x3 => formatted (b == 0) (.clrb a n.toNat)
  | 0x4 => formatted (b == 0) (.tstb a n.toNat)
  | 0x5 => formatted (a == 0 && b.extractLsb' 1 15 == 0) (.sprEn n.toNat (b.getLsbD 0))
  | 0x6 => formatted (a == 0 && b.extractLsb' 1 15 == 0) (.sprMc n.toNat (b.getLsbD 0))
  | 0x7 => formatted (a == 0 && highByte b == 0) (.sprBlk n.toNat (lowByte b))
  | 0x8 => .ok (.sprPos n.toNat a b)
  | 0x9 => formatted (a == 0 && highByte b == 0) (.sprCol n.toNat (lowByte b))
  | 0xA => formatted (n == 0 && highByte a == 0 && highByte b == 0) (.sprCc (lowByte a) (lowByte b))
  | 0xB => formatted (n == 0 && b == 0) (.blkAddr a)
  | 0xC => formatted (n == 0 && a == 0 && b == 0) .rline
  | 0xD => formatted (n == 0 && a == 0 && b == 0) .waitf
  | _ => .error .opUnassigned

/-- The decoder: every 40-bit word is one of the 14 operations or reserved (30_encoding.md R81). -/
def decode (w : CmdWord) : Except Reserved Instr :=
  if fieldZ w = 1 then .error .zIsOne else decodeFields (fieldOp w) (fieldN w) (fieldA w) (fieldB w)

/-- The operation number of a command (30_encoding.md R63). -/
def Instr.opNumber : Instr → BitVec 4
  | .rd _ => 0x0
  | .wr _ _ => 0x1
  | .setb _ _ => 0x2
  | .clrb _ _ => 0x3
  | .tstb _ _ => 0x4
  | .sprEn _ _ => 0x5
  | .sprMc _ _ => 0x6
  | .sprBlk _ _ => 0x7
  | .sprPos _ _ _ => 0x8
  | .sprCol _ _ => 0x9
  | .sprCc _ _ => 0xA
  | .blkAddr _ => 0xB
  | .rline => 0xC
  | .waitf => 0xD

/-- A flag operand in its field: `B[0]` is the flag, `B[15:1]` is zero (30_encoding.md R61, R62). -/
def flagField (flag : Bool) : Half := if flag then 1 else 0

/-- A byte operand in its field: bits 7:0 the byte, bits 15:8 zero. -/
def byteField (v : Byte) : Half := v.setWidth 16

/-- The encoder: the command word of a well-formed command, fields a format does not use being zero
(30_encoding.md R61, R83). -/
def encode (i : Instr) : CmdWord :=
  match i with
  | .rd addr => wordOf 0x0 0 addr 0
  | .wr addr value => wordOf 0x1 0 addr (byteField value)
  | .setb addr bit => wordOf 0x2 (BitVec.ofNat 3 bit) addr 0
  | .clrb addr bit => wordOf 0x3 (BitVec.ofNat 3 bit) addr 0
  | .tstb addr bit => wordOf 0x4 (BitVec.ofNat 3 bit) addr 0
  | .sprEn n flag => wordOf 0x5 (BitVec.ofNat 3 n) 0 (flagField flag)
  | .sprMc n flag => wordOf 0x6 (BitVec.ofNat 3 n) 0 (flagField flag)
  | .sprBlk n block => wordOf 0x7 (BitVec.ofNat 3 n) 0 (byteField block)
  | .sprPos n x y => wordOf 0x8 (BitVec.ofNat 3 n) x y
  | .sprCol n colour => wordOf 0x9 (BitVec.ofNat 3 n) 0 (byteField colour)
  | .sprCc ca cb => wordOf 0xA 0 (byteField ca) (byteField cb)
  | .blkAddr pointer => wordOf 0xB 0 pointer 0
  | .rline => wordOf 0xC 0 0 0
  | .waitf => wordOf 0xD 0 0 0

/-- One row of the table of 30_encoding.md R64: a word `w` selects the operation when `w & mask = match`. -/
structure EncRow where
  /-- The table's match. -/
  pattern : CmdWord
  /-- The table's mask. -/
  mask : CmdWord
  deriving DecidableEq, Repr

/-- The word selects the operation of the row (30_encoding.md R64). -/
def EncRow.selects (r : EncRow) (w : CmdWord) : Bool := w &&& r.mask == r.pattern

/-- The table of 30_encoding.md R64, in its order (`RD` first, `WAITF` last). The decoder does not read
it: that the two agree is a claim. -/
def encTable : List EncRow :=
  [⟨0x0000000000, 0xFF0000FFFF⟩, ⟨0x1000000000, 0xFF0000FF00⟩, ⟨0x2000000000, 0xF80000FFFF⟩,
   ⟨0x3000000000, 0xF80000FFFF⟩, ⟨0x4000000000, 0xF80000FFFF⟩, ⟨0x5000000000, 0xF8FFFFFFFE⟩,
   ⟨0x6000000000, 0xF8FFFFFFFE⟩, ⟨0x7000000000, 0xF8FFFFFF00⟩, ⟨0x8000000000, 0xF800000000⟩,
   ⟨0x9000000000, 0xF8FFFFFF00⟩, ⟨0xA000000000, 0xFFFF00FF00⟩, ⟨0xB000000000, 0xFF0000FFFF⟩,
   ⟨0xC000000000, 0xFFFFFFFFFF⟩, ⟨0xD000000000, 0xFFFFFFFFFF⟩]

/-- The word whose table bits are `w`: the table numbers the 40 bits as 30_encoding.md R60 does, and a bit
the row does not number is 0. -/
def tableWord (nbits w : Nat) : CmdWord := BitVec.ofNat 40 (w % 2 ^ nbits)

/-- The instruction the decoder reads from a word of the opcode table, none where it is reserved. -/
def decodeTableWord (nbits w : Nat) : Option Instr :=
  match decode (tableWord nbits w) with
  | .ok i => some i
  | .error _ => none

end Sys2Proof
end

