-- ==== Sys2Proof/Machine/State.lean ====
section
/-! DEFINITION. The complete state of the block and of the device cells it touches (10_state.md R10), the
reasons a step can stop, and the state right after reset. -/

namespace Sys2Proof.Machine

/-- Sub-phase of a sample: its first or its second bus read (42_frame_scheduler.md R122). -/
inductive Sub where
  /-- `S0`: about to issue the first read. -/
  | s0
  /-- `S1`: about to issue the second read. -/
  | s1
  deriving DecidableEq, Repr

/-- The three loops of `WAITF` (42_frame_scheduler.md R124). -/
inductive WaitPhase where
  /-- `W_TEST`. -/
  | test
  /-- `W_PHASE1`. -/
  | phase1
  /-- `W_PHASE2`. -/
  | phase2
  deriving DecidableEq, Repr

/-- The sequencer phase `PH` (10_state.md R14). -/
inductive Phase where
  /-- `IDLE`: no command. -/
  | idle
  /-- `STEP(i)`: about to issue the `i`-th bus transaction, counted from 0, of a straight-line command. -/
  | step (i : Nat)
  /-- A phase of `WAITF` with the sub-phase of the sample in progress. -/
  | wait (w : WaitPhase) (sub : Sub)
  deriving DecidableEq, Repr

/-- READ or WRITE (20_memory.md R40). -/
inductive RW where
  /-- A byte read. -/
  | read
  /-- A byte write. -/
  | write
  deriving DecidableEq, Repr

/-- One entry of the event history (00_scope.md R9; log 11). -/
inductive Event where
  /-- HOST's command was accepted. -/
  | accepted (i : Instr)
  /-- A bus transaction `(rw, addr, data)` (20_memory.md R40), and the raster line and the frame at its step. -/
  | bus (rw : RW) (addr : Addr) (data : Byte) (line : Line) (frame : Nat)
  /-- The command completed. -/
  | completed (i : Instr)
  deriving DecidableEq, Repr

/-- No fault exists: "no rule of this spec faults" (60_exceptions.md R140, R155). Nothing raises one. -/
inductive Fault where
  deriving DecidableEq, Repr

/-- Why the model gives a step no meaning (60_exceptions.md R155). Each is safe: the run stops where the spec
tells a model to refuse. -/
inductive Refusal where
  /-- An instruction without a meaning in the model: raised by no arm of `exec` (safe). -/
  | notModelled (mnemonic : String)
  /-- `step` on a reserved command word (30_encoding.md R80); the port does not accept it (safe). -/
  | reservedWord (w : CmdWord) (why : Reserved)
  /-- A bus transaction to an address outside the block map, by `memRead` and `memWrite` (00_scope.md R8; safe). -/
  | outsideBlockMap (addr : Addr)
  /-- A write to a raster register, by `memWrite` (10_state.md R31; safe). -/
  | rasterWrite (addr : Addr)
  /-- An object or bit index above 7, by the meanings that take one (41_sprite_engine.md R113; safe). -/
  | indexAbove7 (index : Nat)
  /-- `step` under an ill-formed configuration (60_exceptions.md R155; safe). -/
  | illFormedConfig
  deriving DecidableEq, Repr

/-- The state (10_state.md R10). Plain data. -/
structure State where
  /-- The configuration, constant for a run (10_state.md R36): no step writes it (log 2). -/
  cfg : Config
  /-- Command latch `OP` (10_state.md R11). -/
  op : BitVec 4
  /-- Command latch `N`. -/
  n : Slot
  /-- Command latch `A`. -/
  a : Half
  /-- Command latch `B`. -/
  b : Half
  /-- Result latch `RES` (10_state.md R12). -/
  res : Half
  /-- Handshake flag `BUSY` (10_state.md R13). -/
  busy : Bool
  /-- Sequencer phase `PH` (10_state.md R14). -/
  ph : Phase
  /-- Temporary `v`: the byte of a read-modify-write (10_state.md R15). -/
  v : Byte
  /-- Temporary `hi`: the high byte of a sample. -/
  hi : Byte
  /-- Temporary `lo`: the low byte of a sample. -/
  lo : Byte
  /-- Temporary `l`: the combined sample. -/
  l : Line
  /-- `SPR_X[n]` (10_state.md R21). -/
  sprX : Vector Byte 8
  /-- `SPR_Y[n]` (10_state.md R21). -/
  sprY : Vector Byte 8
  /-- `SPR_COLOR[n]` (10_state.md R25). -/
  sprColor : Vector Byte 8
  /-- `SPR_ENABLE` (10_state.md R26). -/
  sprEnable : Byte
  /-- `SPR_MCM` (10_state.md R27). -/
  sprMcm : Byte
  /-- `SPR_XMSB` (10_state.md R28). -/
  sprXmsb : Byte
  /-- `SPR_MC0` (10_state.md R29). -/
  sprMc0 : Byte
  /-- `SPR_MC1` (10_state.md R29). -/
  sprMc1 : Byte
  /-- Memory, by address, in the canonical form of `Memory.Wf`; it holds the pointer block `SPR_PTR[n]`
  (10_state.md R23). -/
  mem : List Host.Cell
  /-- The raster line counter `L` (10_state.md R34). -/
  line : Line
  /-- The model's own: the frames RASTER has begun since the run began, the frame number of the history (log 23). -/
  frame : Nat
  /-- The command words HOST has yet to present, the first being the one on `CMD` (00_scope.md R1, R2; log 10). -/
  host : List CmdWord
  /-- The model's own: how many RASTER ticks follow each coming SEQ step, as far as a run fixes it (log 8). -/
  sched : List Nat
  /-- The model's own: the draw counter the free values are applied to (log 7). -/
  draws : Nat
  /-- The event history, newest first (00_scope.md R9; log 11). -/
  hist : List Event
  deriving DecidableEq, Repr

/-- The state right after reset (10_state.md R38; 70_reset_and_hazards.md R160): idle, under REF (log 1). Every
value the spec leaves unspecified is 0, DESIGN CHOICE (logs 3 to 6); `IsReset` (Safety.lean) is the spec's
whole set of reset states, and claims are made for all of it. -/
def State.reset : State where
  cfg := Config.ref
  op := 0
  n := 0
  a := 0
  b := 0
  res := 0
  busy := false
  ph := .idle
  v := 0
  hi := 0
  lo := 0
  l := 0
  sprX := Vector.replicate 8 0
  sprY := Vector.replicate 8 0
  sprColor := Vector.replicate 8 0
  sprEnable := 0
  sprMcm := 0
  sprXmsb := 0
  sprMc0 := 0
  sprMc1 := 0
  mem := []
  line := 0
  frame := 0
  host := []
  sched := []
  draws := 0
  hist := []

end Sys2Proof.Machine
end

