-- ==== Sys2Proof/Machine/Flags.lean ====
section
/-! DEFINITION. Flags and conditions. `BUSY` is the only status flag: "There are no condition codes, no carry,
zero or overflow flags and no predicates" (10_state.md R13). Here are its changes, with those of the phase
`PH` (R14), and the three comparisons of `WAITF` (42_frame_scheduler.md R124). -/

namespace Sys2Proof.Machine

/-- The phase of a command just accepted (10_state.md R14): `W_TEST` with `S0` for `WAITF`, else `STEP(0)`. -/
def startPhase (op : BitVec 4) : Phase := if op = 0xD then .wait .test .s0 else .step 0

/-- HOST's word `w`, which stands for `i`, is accepted (10_state.md R11, R13): the latches take its fields,
`BUSY` is 1, `PH` is the command's first phase; `rest` is what HOST has yet to present. -/
def accept (w : CmdWord) (i : Instr) (rest : List CmdWord) (s : State) : State :=
  { s with
    op := fieldOp w
    n := fieldN w
    a := fieldA w
    b := fieldB w
    busy := true
    ph := startPhase (fieldOp w)
    host := rest
    hist := .accepted i :: s.hist }

/-- The command goes on at bus transaction `k`: `PH` advances, `BUSY` stays 1 (10_state.md R13, R14). -/
def goto (k : Nat) (s : State) : State := { s with busy := true, ph := .step k }

/-- `WAITF` goes on at a phase and sub-phase. -/
def gotoWait (w : WaitPhase) (sub : Sub) (s : State) : State := { s with busy := true, ph := .wait w sub }

/-- The command completes: `BUSY` is 0 and `PH` returns to `IDLE` (10_state.md R13, R14). The latches and
temporaries are dead; they keep their values (log 15). -/
def complete (i : Instr) (s : State) : State :=
  { s with busy := false, ph := .idle, hist := .completed i :: s.hist }

/-- `l >u T_LATE` (42_frame_scheduler.md R124, "past"). -/
def pastLate (c : Config) (l : Line) : Bool := decide (c.tLate < l.toNat)

/-- `l <u T_LOW` ("to a low value"). -/
def belowLow (c : Config) (l : Line) : Bool := decide (l.toNat < c.tLow)

/-- `l >=u T_BLANK` ("reaches"). -/
def reachesBlank (c : Config) (l : Line) : Bool := decide (c.tBlank ≤ l.toNat)

end Sys2Proof.Machine
end

