-- ==== Sys2Proof/Machine/Layout.lean ====
section
/-! DEFINITION. The block map: which cell an address names (20_memory.md R46), the address of each cell
(10_state.md R21 to R33; 30_encoding.md R72), and the constraints on a configuration (00_scope.md section 4). -/

namespace Sys2Proof.Machine

/-- A storage cell of the sprite register file (10_state.md R20). -/
inductive SprCell where
  /-- `SPR_X[n]`. -/
  | x (n : Slot)
  /-- `SPR_Y[n]`. -/
  | y (n : Slot)
  /-- `SPR_PTR[n]`. -/
  | ptr (n : Slot)
  /-- `SPR_COLOR[n]`. -/
  | color (n : Slot)
  /-- `SPR_ENABLE`. -/
  | enable
  /-- `SPR_MCM`. -/
  | mcm
  /-- `SPR_XMSB`. -/
  | xmsb
  /-- `SPR_MC0`. -/
  | mc0
  /-- `SPR_MC1`. -/
  | mc1
  deriving DecidableEq, Repr

/-- The cells whose high nibble is drawn at a read (10_state.md R30). -/
def SprCell.isColour : SprCell → Bool
  | .color _ => true
  | .mc0 => true
  | .mc1 => true
  | .x _ => false
  | .y _ => false
  | .ptr _ => false
  | .enable => false
  | .mcm => false
  | .xmsb => false

/-- A cell of the block map: a sprite cell or one of the two raster views. -/
inductive Cell where
  /-- A storage cell. -/
  | spr (c : SprCell)
  /-- `RASTER_HI`, a view of `L` (10_state.md R33). -/
  | rasterHi
  /-- `RASTER_LO`, a view of `L` (10_state.md R32). -/
  | rasterLo
  deriving DecidableEq, Repr

/-- The address of a storage cell (20_memory.md R46). -/
def sprAddr (c : Config) : SprCell → Addr
  | .x n => eaPosX c n
  | .y n => eaPosY c n
  | .ptr n => eaPtr c n
  | .color n => eaColor c n
  | .enable => c.aSprEnable
  | .mcm => c.aSprMcm
  | .xmsb => c.aXmsb
  | .mc0 => c.aSprMc0
  | .mc1 => c.aSprMc1

/-- The address of a cell of the block map (20_memory.md R46). -/
def cellAddr (c : Config) : Cell → Addr
  | .spr k => sprAddr c k
  | .rasterHi => c.aRasterHi
  | .rasterLo => c.aRasterLo

/-- How far an address lies above a base, modulo 2^16. -/
def offsetFrom (base addr : Addr) : Addr := addr - base

/-- The slot at an offset of stride 1 below 8. -/
def slotOf (off : Addr) : Slot := off.setWidth 3

/-- The cell an address names, `none` outside the block map (20_memory.md R46; 00_scope.md R8). -/
def cellAt (c : Config) (addr : Addr) : Option Cell :=
  if addr = c.aXmsb then some (.spr .xmsb)
  else if addr = c.aRasterHi then some .rasterHi
  else if addr = c.aRasterLo then some .rasterLo
  else if addr = c.aSprEnable then some (.spr .enable)
  else if addr = c.aSprMcm then some (.spr .mcm)
  else if addr = c.aSprMc0 then some (.spr .mc0)
  else if addr = c.aSprMc1 then some (.spr .mc1)
  else if offsetFrom c.aPosBase addr < 16 then
    if (offsetFrom c.aPosBase addr).getLsbD 0 then some (.spr (.y (slotOf (offsetFrom c.aPosBase addr >>> 1))))
    else some (.spr (.x (slotOf (offsetFrom c.aPosBase addr >>> 1))))
  else if offsetFrom c.aSprColorBase addr < 8 then some (.spr (.color (slotOf (offsetFrom c.aSprColorBase addr))))
  else if offsetFrom c.aPtrBase addr < 8 then some (.spr (.ptr (slotOf (offsetFrom c.aPtrBase addr))))
  else none

/-- The spans (first address, length) of the block map (20_memory.md R46). -/
def spans (c : Config) : List (Nat × Nat) :=
  [(c.aPosBase.toNat, 16), (c.aXmsb.toNat, 1), (c.aRasterHi.toNat, 1), (c.aRasterLo.toNat, 1),
   (c.aSprEnable.toNat, 1), (c.aSprMcm.toNat, 1), (c.aSprMc0.toNat, 1), (c.aSprMc1.toNat, 1),
   (c.aSprColorBase.toNat, 8), (c.screenBase.toNat + c.ptrOffset.toNat, 8)]

/-- Two spans share no address. -/
abbrev SpansApart (p q : Nat × Nat) : Prop := p.1 + p.2 ≤ q.1 ∨ q.1 + q.2 ≤ p.1

/-- "The cells must be pairwise distinct addresses" (20_memory.md R46), and no span wraps
(00_scope.md section 4: `A_POS_BASE + 15 <= 0xFFFF`, `A_SPR_COLOR_BASE + 7 <= 0xFFFF`). -/
abbrev MapWf (c : Config) : Prop :=
  (spans c).Pairwise SpansApart ∧ ∀ p ∈ spans c, p.1 + p.2 ≤ 65536

/-- The bank's constraints (00_scope.md section 4; 20_memory.md R43): aligned, large enough for every pointer
byte, the character grid and the pointer block inside it. That the bank lies inside the address space is
DEDUCED (log 14): a bank is a "partition of the addressable memory space". -/
abbrev BankWf (c : Config) : Prop :=
  16384 ≤ c.bankSize ∧ c.bankBase.toNat % c.bankSize = 0 ∧ c.bankBase.toNat + c.bankSize ≤ 65536 ∧
    c.bankBase.toNat ≤ c.screenBase.toNat ∧
    c.screenBase.toNat + c.ptrOffset.toNat + 7 < c.bankBase.toNat + c.bankSize

/-- The constraints of the display parameters (00_scope.md section 4; 42_frame_scheduler.md R124). -/
abbrev DisplayWf (c : Config) : Prop :=
  c.tLate < c.tBlank ∧ 1 ≤ c.tLow ∧ c.tLow ≤ c.tBlank ∧ c.tBlank < c.lines ∧ c.lines ≤ 512 ∧
    1 ≤ c.vFirst ∧ c.vFirst ≤ c.tLate ∧
    (c.combine ≠ .nine → c.tBlank ≤ 255 ∧ c.lines < 256 + c.tBlank)

/-- A well-formed configuration "satisfies every constraint and maps no two named cells to one address"
(92_eei_decisions.md, "Open parameters in one list"). -/
abbrev ConfigWf (c : Config) : Prop := MapWf c ∧ BankWf c ∧ DisplayWf c

end Sys2Proof.Machine
end

