-- ==== Sys2Proof/Machine/Memory.lean ====
section
/-! DEFINITION. Memory as a list of (address, byte) pairs in one canonical form (10_state.md R23, R39). -/

namespace Sys2Proof.Machine

/-- What a byte of memory that nothing has written reads as. DESIGN CHOICE (log 4), unsafe: the spec gives
memory no reset value (10_state.md R38). -/
def Memory.unlisted : Byte := 0

/-- The byte at an address. -/
def Memory.read (m : List Host.Cell) (addr : Nat) : Byte :=
  match m with
  | [] => Memory.unlisted
  | c :: rest => if c.1 = addr then c.2 else Memory.read rest addr

/-- The pairs that hold `v` at `addr` before the pairs `rest` of higher addresses. -/
def Memory.consByte (addr : Nat) (v : Byte) (rest : List Host.Cell) : List Host.Cell :=
  if v = Memory.unlisted then rest else (addr, v) :: rest

/-- Memory after the byte at an address is written; it stays in canonical form. -/
def Memory.write (m : List Host.Cell) (addr : Nat) (v : Byte) : List Host.Cell :=
  match m with
  | [] => Memory.consByte addr v []
  | c :: rest =>
    if addr < c.1 then Memory.consByte addr v (c :: rest)
    else if addr = c.1 then Memory.consByte addr v rest
    else c :: Memory.write rest addr v

/-- The canonical form: addresses strictly rising, inside the 2^16 bytes of the address space (10_state.md R39),
and no entry equal to what an unlisted address reads as. -/
abbrev Memory.Wf (m : List Host.Cell) : Prop :=
  m.Pairwise (fun c d => c.1 < d.1) ∧ ∀ c ∈ m, c.1 < 65536 ∧ c.2 ≠ Memory.unlisted

end Sys2Proof.Machine
end

