-- ==== Sys2Proof/Machine/Ops.lean ====
section
/-! DEFINITION. The operations every meaning is written over: the storage cells, the bus transactions
(20_memory.md R40; 10_state.md R30, R31), the sample of the raster line, and RASTER's ticks.
Taking an exception and returning from one have no operation here: the block "raises no exception of any
kind", saves no state, has no vector and no return (60_exceptions.md R140, R145, R146; log 17). -/

namespace Sys2Proof.Machine

/-! ### Storage cells -/

/-- The byte a storage cell holds. -/
def getCell (s : State) : SprCell → Byte
  | .x n => s.sprX[n.toNat]
  | .y n => s.sprY[n.toNat]
  | .ptr n => Memory.read s.mem (eaPtr s.cfg n).toNat
  | .color n => s.sprColor[n.toNat]
  | .enable => s.sprEnable
  | .mcm => s.sprMcm
  | .xmsb => s.sprXmsb
  | .mc0 => s.sprMc0
  | .mc1 => s.sprMc1

/-- The cell takes the byte at once (10_state.md R31). -/
def setCell (s : State) (k : SprCell) (d : Byte) : State :=
  match k with
  | .x n => { s with sprX := s.sprX.set n.toNat d }
  | .y n => { s with sprY := s.sprY.set n.toNat d }
  | .ptr n => { s with mem := Memory.write s.mem (eaPtr s.cfg n).toNat d }
  | .color n => { s with sprColor := s.sprColor.set n.toNat d }
  | .enable => { s with sprEnable := d }
  | .mcm => { s with sprMcm := d }
  | .xmsb => { s with sprXmsb := d }
  | .mc0 => { s with sprMc0 := d }
  | .mc1 => { s with sprMc1 := d }

/-! ### Bus transactions -/

/-- What a read of a storage cell returns (10_state.md R30): the byte last written; of a colour cell the low
four bits last written under four drawn ones. -/
def readSpr (s : State) (k : SprCell) : Byte :=
  if k.isColour then Config.freeNibble s.draws ++ (getCell s k).extractLsb' 0 4 else getCell s k

/-- What a read of a cell returns at this step (10_state.md R30, R32, R33). -/
def readCell (s : State) : Cell → Byte
  | .spr k => readSpr s k
  | .rasterHi => lineHigh s.line ++ Config.freeCtrlHi s.draws
  | .rasterLo => lineLow s.line

/-- How many draws a read of a cell makes (log 7). -/
def drawsOfRead : Cell → Nat
  | .spr k => if k.isColour then 1 else 0
  | .rasterHi => 1
  | .rasterLo => 0

/-- The history records a bus transaction at the current line of the current frame (00_scope.md R9). -/
def record (rw : RW) (addr : Addr) (d : Byte) (s : State) : State :=
  { s with hist := .bus rw addr d s.line s.frame :: s.hist }

/-- `MemRead(addr, 1)` (20_memory.md R40): the byte of 10_state.md R30 and the state after the transaction;
an address outside the block map is refused. No cell changes (20_memory.md R45). -/
def memRead (addr : Addr) (s : State) : Except Refusal (Byte × State) :=
  match cellAt s.cfg addr with
  | none => .error (.outsideBlockMap addr)
  | some k =>
    .ok (readCell s k, record .read addr (readCell s k) { s with draws := s.draws + drawsOfRead k })

/-- `MemWrite(addr, 1, d)` (20_memory.md R40), with the effect of 10_state.md R31. -/
def memWrite (addr : Addr) (d : Byte) (s : State) : Except Refusal State :=
  match cellAt s.cfg addr with
  | none => .error (.outsideBlockMap addr)
  | some .rasterHi => .error (.rasterWrite addr)
  | some .rasterLo => .error (.rasterWrite addr)
  | some (.spr k) => .ok (record .write addr d (setCell s k d))

/-- A bus read, and what follows it in the same step of SEQ. -/
def withRead (addr : Addr) (s : State) (next : Byte → State → State) : Host.Outcome State Fault Refusal :=
  match memRead addr s with
  | .ok (d, t) => .next (next d t)
  | .error r => .refused r

/-- A bus write, and what follows it in the same step of SEQ. -/
def withWrite (addr : Addr) (d : Byte) (s : State) (next : State → State) : Host.Outcome State Fault Refusal :=
  match memWrite addr d s with
  | .ok t => .next (next t)
  | .error r => .refused r

/-- An object or bit index, refused above 7 (41_sprite_engine.md R113; 93_implementation_defined.md U3, U4). -/
def withIndex (index : Nat) (body : Slot → Host.Outcome State Fault Refusal) :
    Host.Outcome State Fault Refusal :=
  if index < 8 then body (BitVec.ofNat 3 index) else .refused (.indexAbove7 index)

/-- The read-modify-write of one cell by command `i` (20_memory.md R44, R52): at `STEP(1)` the write of
`modify v`, else the read into `v`. The write is unconditional (92_eei_decisions.md D12). A phase that is
not the command's own is taken as its first (log 12). -/
def readModifyWrite (i : Instr) (addr : Addr) (modify : Byte → Byte) (s : State) :
    Host.Outcome State Fault Refusal :=
  match s.ph with
  | .step 1 => withWrite addr (modify s.v) s (complete i)
  | _ => withRead addr s fun d t => goto 1 { t with v := d }

/-! ### Samples of the raster line (42_frame_scheduler.md R122) -/

/-- The read of `RASTER_HI` into `hi`. -/
def readHi (s : State) (next : State → State) : Host.Outcome State Fault Refusal :=
  withRead s.cfg.aRasterHi s fun d t => next { t with hi := d }

/-- The read of `RASTER_LO` into `lo`. -/
def readLo (s : State) (next : State → State) : Host.Outcome State Fault Refusal :=
  withRead s.cfg.aRasterLo s fun d t => next { t with lo := d }

/-- `S0`: the first read of a sample. -/
def sampleFirst (s : State) (next : State → State) : Host.Outcome State Fault Refusal :=
  match s.cfg.readOrder with
  | .hiFirst => readHi s next
  | .loFirst => readLo s next

/-- `l <- COMBINE(hi, lo)`. -/
def combineSample (s : State) : State := { s with l := combineLine s.cfg.combine s.hi s.lo }

/-- `S1`: the second read of a sample, and the combination. -/
def sampleSecond (s : State) (next : State → State) : Host.Outcome State Fault Refusal :=
  match s.cfg.readOrder with
  | .hiFirst => readLo s fun t => next (combineSample t)
  | .loFirst => readHi s fun t => next (combineSample t)

/-! ### RASTER (42_frame_scheduler.md R120; 00_scope.md R4) -/

/-- RASTER takes `k` steps. -/
def tickLine (k : Nat) (s : State) : State :=
  { s with line := lineAfter s.cfg.lines s.line k, frame := s.frame + framesAfter s.cfg.lines s.line k }

/-- The ticks between one SEQ step and the next: as many as the schedule says, and where it says nothing, a
free number (log 8). -/
def rasterTicks (s : State) : State :=
  match s.sched with
  | k :: rest => tickLine k { s with sched := rest }
  | [] => tickLine (Config.freeTicks s.draws) { s with draws := s.draws + 1 }

end Sys2Proof.Machine
end

