-- ==== Sys2Proof/Machine/FrameScheduler.lean ====
section
/-! DEFINITION. The raster-line poller `RLINE` and the blanking-window gate `WAITF` (42_frame_scheduler.md).
Each definition is one SEQ step of its command: one bus read (00_scope.md R3, R7). -/

namespace Sys2Proof.Machine

/-- `RLINE` (42_frame_scheduler.md R122). -/
def execRline (s : State) : Host.Outcome State Fault Refusal :=
  match s.ph with
  | .step 1 => sampleSecond s fun t => complete .rline { t with res := t.l.setWidth 16 }
  | _ => sampleFirst s (goto 1)

/-- Where `WAITF` goes after a sample (42_frame_scheduler.md R124). -/
def waitDecide (w : WaitPhase) (s : State) : State :=
  match w with
  | .test => if pastLate s.cfg s.l then gotoWait .phase1 .s0 s else gotoWait .phase2 .s0 s
  | .phase1 => if belowLow s.cfg s.l then gotoWait .phase2 .s0 s else gotoWait .phase1 .s0 s
  | .phase2 => if reachesBlank s.cfg s.l then complete .waitf s else gotoWait .phase2 .s0 s

/-- `WAITF` (42_frame_scheduler.md R124): one read of the sample in progress. -/
def execWaitf (s : State) : Host.Outcome State Fault Refusal :=
  match s.ph with
  | .wait w .s1 => sampleSecond s (waitDecide w)
  | .wait w .s0 => sampleFirst s (gotoWait w .s1)
  | _ => sampleFirst s (gotoWait .test .s1)

end Sys2Proof.Machine
end

