-- ==== Sys2Proof/Machine/RegisterAccess.lean ====
section
/-! DEFINITION. The five RegisterAccess primitives (40_register_access.md). Each definition is one SEQ step of
its command: the step `PH` names (00_scope.md R3). -/

namespace Sys2Proof.Machine

/-- `RD addr` (40_register_access.md R90). -/
def execRd (addr : Addr) (s : State) : Host.Outcome State Fault Refusal :=
  withRead addr s fun d t => complete (.rd addr) { t with res := d.setWidth 16 }

/-- `WR addr, value` (R91). -/
def execWr (addr : Addr) (value : Byte) (s : State) : Host.Outcome State Fault Refusal :=
  withWrite addr value s (complete (.wr addr value))

/-- `SETB addr, bit` (R92). -/
def execSetb (addr : Addr) (bit : Nat) (s : State) : Host.Outcome State Fault Refusal :=
  withIndex bit fun i => readModifyWrite (.setb addr bit) addr (fun v => withBit v i) s

/-- `CLRB addr, bit` (R93). -/
def execClrb (addr : Addr) (bit : Nat) (s : State) : Host.Outcome State Fault Refusal :=
  withIndex bit fun i => readModifyWrite (.clrb addr bit) addr (fun v => withoutBit v i) s

/-- `TSTB addr, bit` (R94). -/
def execTstb (addr : Addr) (bit : Nat) (s : State) : Host.Outcome State Fault Refusal :=
  withIndex bit fun i =>
    withRead addr s fun d t => complete (.tstb addr bit) { t with v := d, res := testBit d i }

end Sys2Proof.Machine
end

