-- ==== Sys2Proof/Machine/SpriteEngine.lean ====
section
/-! DEFINITION. The seven SpriteEngine commands (41_sprite_engine.md). Each definition is one SEQ step of its
command: the step `PH` names (00_scope.md R3). -/

namespace Sys2Proof.Machine

/-- `SPR_EN n, flag` (41_sprite_engine.md R100). -/
def execSprEn (n : Nat) (flag : Bool) (s : State) : Host.Outcome State Fault Refusal :=
  withIndex n fun i => readModifyWrite (.sprEn n flag) s.cfg.aSprEnable (fun v => assignBit v i flag) s

/-- `SPR_MC n, flag` (R101). -/
def execSprMc (n : Nat) (flag : Bool) (s : State) : Host.Outcome State Fault Refusal :=
  withIndex n fun i => readModifyWrite (.sprMc n flag) s.cfg.aSprMcm (fun v => assignBit v i flag) s

/-- `SPR_BLK n, block` (R102). -/
def execSprBlk (n : Nat) (block : Byte) (s : State) : Host.Outcome State Fault Refusal :=
  withIndex n fun i => withWrite (eaPtr s.cfg i) block s (complete (.sprBlk n block))

/-- `SPR_POS n, x, y` (R103 to R107): x, y, then the read-modify-write of `SPR_XMSB`. -/
def execSprPos (n : Nat) (x y : Half) (s : State) : Host.Outcome State Fault Refusal :=
  withIndex n fun i =>
    match s.ph with
    | .step 1 => withWrite (eaPosY s.cfg i) (posLow (clampNeg y)) s (goto 2)
    | .step 2 => withRead s.cfg.aXmsb s fun d t => goto 3 { t with v := d }
    | .step 3 => withWrite s.cfg.aXmsb (assignBit s.v i (posHigh (clampNeg x))) s (complete (.sprPos n x y))
    | _ => withWrite (eaPosX s.cfg i) (posLow (clampNeg x)) s (goto 1)

/-- `SPR_COL n, colour` (R108). -/
def execSprCol (n : Nat) (colour : Byte) (s : State) : Host.Outcome State Fault Refusal :=
  withIndex n fun i => withWrite (eaColor s.cfg i) colour s (complete (.sprCol n colour))

/-- `SPR_CC a, b` (R109): `a` first. -/
def execSprCc (ca cb : Byte) (s : State) : Host.Outcome State Fault Refusal :=
  match s.ph with
  | .step 1 => withWrite s.cfg.aSprMc1 cb s (complete (.sprCc ca cb))
  | _ => withWrite s.cfg.aSprMc0 ca s (goto 1)

/-- `BLK_ADDR pointer` (R110): no bus transaction; out of the bank the index is a free byte. -/
def execBlkAddr (pointer : Addr) (s : State) : Host.Outcome State Fault Refusal :=
  .next (complete (.blkAddr pointer)
    (if inBank s.cfg pointer then { s with res := (blockIndex s.cfg pointer).setWidth 16 }
     else { s with res := (Config.freeBlock s.draws).setWidth 16, draws := s.draws + 1 }))

end Sys2Proof.Machine
end

