-- ==== Sys2Proof/Machine/Dispatch.lean ====
section
/-! DEFINITION. One SEQ step of a command: one arm per constructor of `Instr`. -/

namespace Sys2Proof.Machine

/-- One SEQ step of the command `i` (00_scope.md R3), the one `PH` names. It does not tick RASTER: `step` does. -/
def exec (i : Instr) (s : State) : Host.Outcome State Fault Refusal :=
  match i with
  | .rd addr => Sys2Proof.Machine.execRd addr s
  | .wr addr value => Sys2Proof.Machine.execWr addr value s
  | .setb addr bit => Sys2Proof.Machine.execSetb addr bit s
  | .clrb addr bit => Sys2Proof.Machine.execClrb addr bit s
  | .tstb addr bit => Sys2Proof.Machine.execTstb addr bit s
  | .sprEn n flag => Sys2Proof.Machine.execSprEn n flag s
  | .sprMc n flag => Sys2Proof.Machine.execSprMc n flag s
  | .sprBlk n block => Sys2Proof.Machine.execSprBlk n block s
  | .sprPos n x y => Sys2Proof.Machine.execSprPos n x y s
  | .sprCol n colour => Sys2Proof.Machine.execSprCol n colour s
  | .sprCc ca cb => Sys2Proof.Machine.execSprCc ca cb s
  | .blkAddr pointer => Sys2Proof.Machine.execBlkAddr pointer s
  | .rline => Sys2Proof.Machine.execRline s
  | .waitf => Sys2Proof.Machine.execWaitf s

end Sys2Proof.Machine
end

