-- ==== Sys2Proof/Machine/Fetch.lean ====
section
/-! DEFINITION. What `step` adds around `exec`: taking HOST's next word, resuming the command in progress, and
RASTER's ticks after the SEQ step. -/

namespace Sys2Proof.Machine

/-- The command word the latches hold; its `Z` is 0, as of every accepted word (10_state.md R11). -/
def latchedWord (s : State) : CmdWord := wordOf s.op s.n s.a s.b

/-- RASTER's ticks after a SEQ step that gave a next state (00_scope.md R4). -/
def thenTicks (o : Host.Outcome State Fault Refusal) : Host.Outcome State Fault Refusal :=
  match o with
  | .next t => .next (rasterTicks t)
  | .fault r => .fault r
  | .refused r => .refused r

/-- `BUSY = 1`: SEQ goes on with the command in the latches. -/
def resume (s : State) : Host.Outcome State Fault Refusal :=
  match decode (latchedWord s) with
  | .ok i => exec i s
  | .error why => .refused (.reservedWord (latchedWord s) why)

/-- `BUSY = 0`: the word on `CMD`, if any, is accepted and its first SEQ step runs (log 9); a reserved word is
not accepted, and the model refuses (30_encoding.md R80). With no word on `CMD` SEQ does nothing (00_scope.md R6). -/
def takeCommand (s : State) : Host.Outcome State Fault Refusal :=
  match s.host with
  | [] => .next s
  | w :: rest =>
    match decode w with
    | .ok i => exec i (accept w i rest s)
    | .error why => .refused (.reservedWord w why)

end Sys2Proof.Machine
end

