-- ==== Sys2Proof/Machine/Step.lean ====
section
/-! DEFINITION. One step of the machine: one SEQ step and the RASTER ticks before the next one. -/

namespace Sys2Proof.Machine

/-- One step: SEQ's (the command in progress, or HOST's next), then RASTER's ticks (00_scope.md R1 to R4). An
ill-formed configuration is refused (60_exceptions.md R155). -/
def step (s : State) : Host.Outcome State Fault Refusal :=
  if ConfigWf s.cfg then thenTicks (if s.busy then resume s else takeCommand s)
  else .refused .illFormedConfig

/-- HOST presents the word (30_encoding.md R60): it stands on `CMD`, and the block is idle to accept it, so the
next step accepts it and runs it (log 10). -/
def State.withFetchWord (s : State) (nbits w : Nat) : State :=
  { s with busy := false, ph := .idle, host := tableWord nbits w :: s.host }

end Sys2Proof.Machine
end

