-- ==== Sys2Proof/Machine/Observe.lean ====
section
/-! DEFINITION. What the device and an observer see of a state; no step reads these. -/

namespace Sys2Proof.Machine

/-- `X9(n) = {SPR_XMSB[n], SPR_X[n]}` (10_state.md R22). -/
def x9 (s : State) (n : Slot) : Line := s.sprXmsb.extractLsb' n.toNat 1 ++ getCell s (.x n)

/-- `Y8(n) = SPR_Y[n]` (10_state.md R22). -/
def y8 (s : State) (n : Slot) : Byte := getCell s (.y n)

/-- `DATA(n) = BANK_BASE + 64 * SPR_PTR[n]` (10_state.md R24). -/
def dataBlock (s : State) (n : Slot) : Addr := s.cfg.bankBase + 64 * (getCell s (.ptr n)).setWidth 16

/-- `in_blank(L)` (42_frame_scheduler.md R129). -/
def inBlank (c : Config) (line : Nat) : Bool := decide (c.tBlank ≤ line) || decide (line < c.vFirst)

/-- Which blanking interval a line of a frame lies in, numbered by the frame whose scan-out it precedes; `none` during
scan-out. It "runs from line `T_BLANK` through the wrap to line `V_FIRST - 1`" (42_frame_scheduler.md R129). -/
def blankingInterval (c : Config) (frame line : Nat) : Option Nat :=
  if c.tBlank ≤ line then some (frame + 1) else if line < c.vFirst then some frame else none

/-- How many lines of the blanking interval are left, the present one among them: "`LINES - T_BLANK + V_FIRST` lines
minus the lines already passed" (70_reset_and_hazards.md R167); 0 during scan-out. -/
def blankLeft (c : Config) (line : Nat) : Nat :=
  if c.tBlank ≤ line then c.lines - c.tBlank + c.vFirst - (line - c.tBlank) else c.vFirst - line

end Sys2Proof.Machine
end

