-- ==== Sys2Proof/Safety.lean ====
section
/-! DEFINITION. The terms claims are stated in: the invariant of the machine, the spec's reset states, what a
command loads and stores, the bus behaviour, the commit windows and the end of a run. -/

namespace Sys2Proof.Machine

/-! ### The invariant -/

/-- The phases of a command in progress (10_state.md R14; 20_memory.md R44). -/
def phaseFits (i : Instr) (ph : Phase) : Bool :=
  match i, ph with
  | .setb _ _, .step k | .clrb _ _, .step k | .sprEn _ _, .step k | .sprMc _ _, .step k => decide (k < 2)
  | .sprCc _ _, .step k | .rline, .step k => decide (k < 2)
  | .sprPos _ _ _, .step k => decide (k < 4)
  | .waitf, .wait _ _ => true
  | .rd _, .step k | .wr _ _, .step k | .tstb _ _, .step k => decide (k < 1)
  | .sprBlk _ _, .step k | .sprCol _ _, .step k | .blkAddr _, .step k => decide (k < 1)
  | _, _ => false

/-- The latches hold a command and `PH` is one of its phases (10_state.md R11, R14). -/
def inCommand (s : State) : Bool :=
  match decode (latchedWord s) with
  | .ok i => phaseFits i s.ph
  | .error _ => false

/-- Every listed byte of memory belongs to the pointer block, the only memory the block touches
(10_state.md R23; 20_memory.md R46). -/
abbrev MemInPtrBlock (s : State) : Prop :=
  ∀ c ∈ s.mem, s.cfg.aPtrBase.toNat ≤ c.1 ∧ c.1 < s.cfg.aPtrBase.toNat + 8

/-- The invariant: a well-formed configuration; `L` in 0..`LINES`-1 (10_state.md R34); memory canonical and
inside the pointer block; `BUSY` is 0 exactly in `IDLE` (R13, R14); while `BUSY` is 1, `PH` is a phase of the
command in the latches. -/
abbrev Inv (s : State) : Prop :=
  ConfigWf s.cfg ∧ s.line.toNat < s.cfg.lines ∧ Memory.Wf s.mem ∧ MemInPtrBlock s ∧
    (s.busy = false ↔ s.ph = .idle) ∧ (s.busy = true → inCommand s = true)

/-- The reset states of the spec (10_state.md R38; 70_reset_and_hazards.md R160): `BUSY` is 0, `PH` is `IDLE`,
`L` is any value in 0..`LINES`-1, and `RES`, every sprite cell, the latches and the temporaries are
unconstrained. The configuration is any well-formed one, and nothing has happened on the bus. -/
abbrev IsReset (s : State) : Prop :=
  ConfigWf s.cfg ∧ s.busy = false ∧ s.ph = .idle ∧ s.line.toNat < s.cfg.lines ∧
    Memory.Wf s.mem ∧ MemInPtrBlock s ∧ s.hist = []

/-! ### What a command loads and stores (20_memory.md R44; 40_register_access.md R97) -/

/-- The address the SEQ step of `i` at this state stores to, `none` where it stores nothing. -/
def storeAddr (i : Instr) (s : State) : Option Addr :=
  match i with
  | .wr addr _ => some addr
  | .setb addr _ => if s.ph = .step 1 then some addr else none
  | .clrb addr _ => if s.ph = .step 1 then some addr else none
  | .sprEn _ _ => if s.ph = .step 1 then some s.cfg.aSprEnable else none
  | .sprMc _ _ => if s.ph = .step 1 then some s.cfg.aSprMcm else none
  | .sprBlk n _ => some (eaPtr s.cfg (BitVec.ofNat 3 n))
  | .sprCol n _ => some (eaColor s.cfg (BitVec.ofNat 3 n))
  | .sprCc _ _ => if s.ph = .step 1 then some s.cfg.aSprMc1 else some s.cfg.aSprMc0
  | .sprPos n _ _ =>
    if s.ph = .step 1 then some (eaPosY s.cfg (BitVec.ofNat 3 n))
    else if s.ph = .step 2 then none
    else if s.ph = .step 3 then some s.cfg.aXmsb
    else some (eaPosX s.cfg (BitVec.ofNat 3 n))
  | .rd _ => none
  | .tstb _ _ => none
  | .blkAddr _ => none
  | .rline => none
  | .waitf => none

/-- The four value-returning commands, the only ones that write `RES` (10_state.md R12). -/
def writesRes : Instr → Bool
  | .rd _ | .tstb _ _ | .blkAddr _ | .rline => true
  | .wr _ _ | .setb _ _ | .clrb _ _ | .sprEn _ _ | .sprMc _ _ | .sprBlk _ _ | .sprPos _ _ _ | .sprCol _ _
  | .sprCc _ _ | .waitf => false

/-- The commands that read a byte into the temporary `v` (10_state.md R15; 40_register_access.md R94). -/
def writesV : Instr → Bool
  | .setb _ _ | .clrb _ _ | .tstb _ _ | .sprEn _ _ | .sprMc _ _ | .sprPos _ _ _ => true
  | .rd _ | .wr _ _ | .sprBlk _ _ | .sprCol _ _ | .sprCc _ _ | .blkAddr _ | .rline | .waitf => false

/-- The commands that sample the raster line into `hi`, `lo` and `l` (10_state.md R15). -/
def samples : Instr → Bool
  | .rline | .waitf => true
  | .rd _ | .wr _ _ | .setb _ _ | .clrb _ _ | .tstb _ _ | .sprEn _ _ | .sprMc _ _ | .sprBlk _ _ | .sprPos _ _ _
  | .sprCol _ _ | .sprCc _ _ | .blkAddr _ => false

/-- How many bus transactions a straight-line command makes (20_memory.md R44); `WAITF` has no fixed number. -/
def transactions : Instr → Nat
  | .blkAddr _ => 0
  | .rd _ | .wr _ _ | .tstb _ _ | .sprBlk _ _ | .sprCol _ _ => 1
  | .setb _ _ | .clrb _ _ | .sprEn _ _ | .sprMc _ _ | .sprCc _ _ | .rline => 2
  | .sprPos _ _ _ => 4
  | .waitf => 0

/-- How many SEQ steps a straight-line command takes: one per transaction, and one for `BLK_ADDR`. -/
def seqSteps (i : Instr) : Nat := max 1 (transactions i)

/-- The absolute operand of a command is one the block gives a meaning: a cell of the block map, and not a
raster register where the command writes it (00_scope.md R8; 10_state.md R31). -/
abbrev OperandMapped (c : Config) (i : Instr) : Prop :=
  match i with
  | .rd addr => (cellAt c addr).isSome
  | .tstb addr _ => (cellAt c addr).isSome
  | .wr addr _ => (cellAt c addr).isSome ∧ cellAt c addr ≠ some .rasterHi ∧ cellAt c addr ≠ some .rasterLo
  | .setb addr _ => (cellAt c addr).isSome ∧ cellAt c addr ≠ some .rasterHi ∧ cellAt c addr ≠ some .rasterLo
  | .clrb addr _ => (cellAt c addr).isSome ∧ cellAt c addr ≠ some .rasterHi ∧ cellAt c addr ≠ some .rasterLo
  | _ => True

/-! ### The event history -/

/-- The event is a bus transaction. -/
def Event.isBus : Event → Bool
  | .bus _ _ _ _ _ => true
  | .accepted _ => false
  | .completed _ => false

/-- The bus transactions of a history. -/
def busTrace (h : List Event) : List Event := h.filter Event.isBus

/-- Two states agree on everything but the dead command latches and the names of commands in the history: the
cells, `RES`, `L`, the phase and every bus transaction are the same (30_encoding.md R84). -/
def SameBusBehaviour (t u : State) : Prop :=
  { t with op := 0, n := 0, a := 0, b := 0, hist := busTrace t.hist } =
    { u with op := 0, n := 0, a := 0, b := 0, hist := busTrace u.hist }

/-- How many times `WAITF` has completed (42_frame_scheduler.md R128). -/
def gateReturns (h : List Event) : Nat := h.countP (fun e => e = .completed .waitf)

/-- The commands accepted after exactly `k` completions of `WAITF`, newest first. -/
def acceptedAfter (k : Nat) : List Event → List Instr
  | [] => []
  | .accepted i :: older => if gateReturns older = k then i :: acceptedAfter k older else acceptedAfter k older
  | .bus _ _ _ _ _ :: older => acceptedAfter k older
  | .completed _ :: older => acceptedAfter k older

/-- Commit window `k`: the commands accepted after the `k`-th completion of `WAITF` and before the next
(42_frame_scheduler.md R128), newest first. Windows are counted from 1: what precedes the first completion belongs to
none (70_reset_and_hazards.md R171). -/
def commitWindow (k : Nat) (h : List Event) : List Instr := if k = 0 then [] else acceptedAfter k h

/-- The commands accepted before the first `WAITF` completes: "They belong to no commit window"
(70_reset_and_hazards.md R171). -/
def beforeFirstWindow (h : List Event) : List Instr := acceptedAfter 0 h

/-- The command writes a visible-state cell (42_frame_scheduler.md R128). -/
def writesVisible (c : Config) : Instr → Bool
  | .sprEn _ _ | .sprMc _ _ | .sprBlk _ _ | .sprPos _ _ _ | .sprCol _ _ | .sprCc _ _ => true
  | .wr addr _ | .setb addr _ | .clrb addr _ =>
    match cellAt c addr with
    | some (.spr _) => true
    | _ => false
  | .rd _ | .tstb _ _ | .blkAddr _ | .rline | .waitf => false

/-- The bus writes made after exactly `k` completions of `WAITF`, newest first, each as its frame and its line: for
`k` from 1 on, the update of commit window `k`, which is one frame's update (42_frame_scheduler.md R128). -/
def updateWrites (k : Nat) : List Event → List (Nat × Line)
  | [] => []
  | .bus .write _ _ line frame :: older =>
    if gateReturns older = k then (frame, line) :: updateWrites k older else updateWrites k older
  | .bus .read _ _ _ _ :: older => updateWrites k older
  | .accepted _ :: older => updateWrites k older
  | .completed _ :: older => updateWrites k older

/-- The device shows the update of commit window `k` whole: "every bus write of that frame's update falls at steps
where `in_blank(L)` holds", and all in one and the same blanking interval, so that no scan-out falls between two of
them (70_reset_and_hazards.md R167; log 24). -/
def UpdateInOneBlank (c : Config) (k : Nat) (h : List Event) : Prop :=
  ∃ b, ∀ w ∈ updateWrites k h, blankingInterval c w.1 w.2.toNat = some b

/-! ### Runs -/

/-- "a run of a finite command list is over when HOST has no further command and `BUSY = 0`"
(00_scope.md R6). -/
abbrev RunOver (s : State) : Prop := s.host = [] ∧ s.busy = false

/-! ### The fairness premises of a claim that `WAITF` completes (70_reset_and_hazards.md R170) -/

/-- `W`, the width of `WAITF`'s completion window: `LINES - T_BLANK` in mode `NINE`, `256 - T_BLANK` in the 8-bit modes
(70_reset_and_hazards.md R170). -/
def windowWidth (c : Config) : Nat :=
  match c.combine with
  | .nine => c.lines - c.tBlank
  | .orlow => 256 - c.tBlank
  | .low8 => 256 - c.tBlank

/-- `POLL_MAX` is a bound `p`, and `p <= min(T_LOW, W)` (70_reset_and_hazards.md R170). -/
abbrev PollBound (c : Config) (p : Nat) : Prop := c.pollMax = some p ∧ p ≤ min c.tLow (windowWidth c)

/-- In an 8-bit mode with fewer than 256 lines `WAITF`'s window ends at the last line, so it is narrower than R170's
`W`, and the poll must fit it. DEDUCED (log 21): R170 does not say so; its conclusion fails otherwise. -/
abbrev PollFitsShortFrame (c : Config) (p : Nat) : Prop :=
  c.combine ≠ .nine → c.lines < 256 → p ≤ c.lines - c.tBlank

/-- The schedule of a run of samples: for each, the ticks inside it and the ticks after it (42_frame_scheduler.md
R122, R124, `tick*`). -/
def sampleSchedule (ps : List (Nat × Nat)) : List Nat := ps.flatMap fun p => [p.1, p.2]

/-- The schedule in which no tick falls inside a sample, and after the `j`-th sample `ks[j]` ticks do
(95_test_vectors.md section 2.7, schedule `P`). -/
def untornSchedule (ks : List Nat) : List Nat := sampleSchedule (ks.map fun k => (0, k))

/-- How many ticks fall between each two consecutive samples, a sample counting as taken when it reads `RASTER_LO`
(70_reset_and_hazards.md R170; log 22). -/
def sampleGaps (order : ReadOrder) : List (Nat × Nat) → List Nat
  | [] => []
  | [_] => []
  | p :: q :: ps =>
    (match order with
      | .hiFirst => p.2 + q.1
      | .loFirst => p.1 + p.2) :: sampleGaps order (q :: ps)

/-- `L[8]` after `pos` ticks from line 0. -/
def bit8At (c : Config) (pos : Nat) : Nat := pos % c.lines / 256

/-- No tear of these samples matters, the first being begun `pos` ticks from line 0: "A tear matters only when `L[8]`
differs between the two reads" (42_frame_scheduler.md R123), and in mode `LOW8` none does. An untorn sample is clean.
DEDUCED (log 22): R170 does not name this premise; its conclusion fails without it. -/
def cleanSamples (c : Config) : Nat → List (Nat × Nat) → Bool
  | _, [] => true
  | pos, p :: ps =>
    (decide (c.combine = .low8) || decide (bit8At c pos = bit8At c (pos + p.1))) &&
      cleanSamples c (pos + p.1 + p.2) ps

end Sys2Proof.Machine
end

