-- ==== Sys2Proof/Certificates/Slice0/Obligations.lean ====
section
/-! DEFINITION. The statements about the model, for the provers. `exec i s` is one SEQ step of command `i`
(00_scope.md R3); a statement "in every phase but `STEP(1)`" covers the command's first step, from `IDLE` too. The line
and frame stamps of a bus transaction in the history are the model's (logs 11 and 23). -/

open Sys2Proof Sys2Proof.Machine

/-! ### Encoding -/

/-- Words written out from 30_encoding.md R60 to R64 decode as 95_test_vectors.md's decode vectors say. -/
def Obligations.TableWordsDecode : Prop :=
  decode 0x00D0120000 = .ok (.rd 0xD012) ∧ decode 0x10D02000FF = .ok (.wr 0xD020 0xFF) ∧
    decode 0x27D0150000 = .ok (.setb 0xD015 7) ∧ decode 0x5700000001 = .ok (.sprEn 7 true) ∧
    decode 0x72000000FF = .ok (.sprBlk 2 0xFF) ∧ decode 0x81012C0032 = .ok (.sprPos 1 300 50) ∧
    decode 0xA0000F000E = .ok (.sprCc 15 14) ∧ decode 0xB0FFFF0000 = .ok (.blkAddr 0xFFFF) ∧
    decode 0xC000000000 = .ok .rline ∧ decode 0xD000000000 = .ok .waitf ∧
    decode 0x28D0150000 = .error .zIsOne ∧ decode 0x5700000002 = .error .fieldNotZero ∧
    decode 0xE000000000 = .error .opUnassigned

/-- Decoding the word of a well-formed command gives the command back, every operand at every value. -/
def Obligations.DecodeOfEncode : Prop :=
  ∀ i : Instr, i.wellFormed = true → decode (encode i) = .ok i

/-- A word that decodes is the word of its command, and the command is well-formed: no bit is dropped. -/
def Obligations.EncodeOfDecode : Prop :=
  ∀ (w : CmdWord) (i : Instr), decode w = .ok i → encode i = w ∧ i.wellFormed = true

/-- The decoder accepts exactly the words that `w & mask = match` selects, row by row of 30_encoding.md R64
(row `k` is operation number `k`), and no word is selected by two rows. The encoding is the spec's own (D1). -/
def Obligations.DecoderFollowsMatchMaskTable : Prop :=
  encTable.length = 14 ∧
    (∀ (w : CmdWord) (k : Nat) (row : EncRow), encTable[k]? = some row →
      (w &&& row.mask = row.pattern ↔ ∃ i, decode w = .ok i ∧ i.opNumber.toNat = k)) ∧
    (∀ (w : CmdWord) (j k : Nat) (p q : EncRow), encTable[j]? = some p → encTable[k]? = some q →
      w &&& p.mask = p.pattern → w &&& q.mask = q.pattern → j = k)

/-- A word that matches no row of 30_encoding.md R64 is reserved: an idle block under a well-formed configuration
does not accept it, and the model refuses (R80, D19). -/
def Obligations.ReservedWordIsRefused : Prop :=
  ∀ (s : State) (w : CmdWord) (rest : List CmdWord), ConfigWf s.cfg → s.busy = false → s.host = w :: rest →
    (∀ row ∈ encTable, w &&& row.mask ≠ row.pattern) →
    ∃ why, decode w = .error why ∧ step s = .refused (.reservedWord w why)

/-! ### The step -/

/-- A step runs the decoded command. Idle with a word on `CMD`: the word is accepted (its fields latched, `BUSY`
set, `PH` at the command's first phase, the word taken from HOST) and `exec` runs it in that state (log 9). Busy:
`exec` runs the command the latches hold. Idle with nothing on `CMD`: only RASTER steps (00_scope.md R6). In each
case RASTER's ticks follow. -/
def Obligations.StepRunsTheCommand : Prop :=
  ∀ s : State, ConfigWf s.cfg →
    (∀ (w : CmdWord) (rest : List CmdWord) (i : Instr), s.busy = false → s.host = w :: rest → decode w = .ok i →
      step s = thenTicks (exec i { s with
        op := fieldOp w, n := fieldN w, a := fieldA w, b := fieldB w, busy := true
        ph := if i = .waitf then .wait .test .s0 else .step 0
        host := rest, hist := .accepted i :: s.hist })) ∧
    (∀ i : Instr, s.busy = true → decode (wordOf s.op s.n s.a s.b) = .ok i → step s = thenTicks (exec i s)) ∧
    (s.busy = false → s.host = [] → step s = .next (rasterTicks s)) ∧
    (∀ t : State, thenTicks (.next t) = .next (rasterTicks t)) ∧
    (∀ r : Refusal, thenTicks (.refused r) = .refused r)

/-- An ill-formed configuration (a constraint violated, or two cells at one address) is refused (60_exceptions.md R155).
The constraints are those of 00_scope.md section 4 and 20_memory.md R46, and one that is the model's own, which the spec
does not list: `BANK_BASE + BANK_SIZE <= 65536` (DEDUCED, log 14). -/
def Obligations.IllFormedConfigurationIsRefused : Prop :=
  ∀ s : State, ¬ ConfigWf s.cfg → step s = .refused .illFormedConfig

/-! ### The block map and the bus -/

/-- Which addresses the primitives refuse (00_scope.md R8, D16; 10_state.md R31, D17), in every phase. Outside the spans
of the block map of 20_memory.md R46: each primitive. Inside: none refuses a read; a write (of `WR`, or the write-back of
`SETB` and `CLRB`) is refused at the two raster registers, and nowhere else. -/
def Obligations.AddressOutsideBlockMapIsRefused : Prop :=
  ∀ (s : State) (addr : Addr), ConfigWf s.cfg →
    ((∃ p ∈ spans s.cfg, p.1 ≤ addr.toNat ∧ addr.toNat < p.1 + p.2) →
      (∃ t, exec (.rd addr) s = .next t) ∧
      (∀ bit, bit < 8 → (∃ t, exec (.tstb addr bit) s = .next t) ∧
        (s.ph ≠ .step 1 → (∃ t, exec (.setb addr bit) s = .next t) ∧ ∃ t, exec (.clrb addr bit) s = .next t)) ∧
      (addr ≠ s.cfg.aRasterHi ∧ addr ≠ s.cfg.aRasterLo →
        (∀ value, ∃ t, exec (.wr addr value) s = .next t) ∧
        (∀ bit, bit < 8 → (∃ t, exec (.setb addr bit) s = .next t) ∧ ∃ t, exec (.clrb addr bit) s = .next t)) ∧
      (addr = s.cfg.aRasterHi ∨ addr = s.cfg.aRasterLo →
        (∀ value, exec (.wr addr value) s = .refused (.rasterWrite addr)) ∧
        (∀ bit, bit < 8 → s.ph = .step 1 → exec (.setb addr bit) s = .refused (.rasterWrite addr) ∧
          exec (.clrb addr bit) s = .refused (.rasterWrite addr)))) ∧
    ((∀ p ∈ spans s.cfg, ¬ (p.1 ≤ addr.toNat ∧ addr.toNat < p.1 + p.2)) →
      exec (.rd addr) s = .refused (.outsideBlockMap addr) ∧
      (∀ value, exec (.wr addr value) s = .refused (.outsideBlockMap addr)) ∧
      (∀ bit, bit < 8 → exec (.setb addr bit) s = .refused (.outsideBlockMap addr) ∧
        exec (.clrb addr bit) s = .refused (.outsideBlockMap addr) ∧
        exec (.tstb addr bit) s = .refused (.outsideBlockMap addr)))

/-- What a bus read returns, by address (10_state.md R30, R32, R33): the live raster views with `CTRL_HI` any
seven bits, the byte a sprite cell holds, of a colour cell the low four bits under any four (D15, D22); any other
address is refused. A read changes no state but the draw counter and the history. -/
def Obligations.BusReadReturns : Prop :=
  ∀ s : State, ConfigWf s.cfg →
    memRead s.cfg.aRasterLo s = .ok (s.line.extractLsb' 0 8,
      { s with hist := .bus .read s.cfg.aRasterLo (s.line.extractLsb' 0 8) s.line s.frame :: s.hist }) ∧
    (∃ c : BitVec 7, memRead s.cfg.aRasterHi s = .ok (s.line.extractLsb' 8 1 ++ c,
      { s with draws := s.draws + 1,
               hist := .bus .read s.cfg.aRasterHi (s.line.extractLsb' 8 1 ++ c) s.line s.frame :: s.hist })) ∧
    (∀ k : SprCell, k.isColour = false → memRead (sprAddr s.cfg k) s = .ok (getCell s k,
      { s with hist := .bus .read (sprAddr s.cfg k) (getCell s k) s.line s.frame :: s.hist })) ∧
    (∀ k : SprCell, k.isColour = true → ∃ d : BitVec 4,
      memRead (sprAddr s.cfg k) s = .ok (d ++ (getCell s k).extractLsb' 0 4,
        { s with draws := s.draws + 1,
                 hist := .bus .read (sprAddr s.cfg k) (d ++ (getCell s k).extractLsb' 0 4) s.line s.frame :: s.hist })) ∧
    (∀ addr : Addr, (∀ k, cellAddr s.cfg k ≠ addr) → memRead addr s = .error (.outsideBlockMap addr))

/-- What a bus write does, by address (10_state.md R31, R35): the sprite cell takes the byte at once, every other
cell, every other byte of memory and all the rest of the state but the history stay; a raster register and any
address outside the block map are refused (D16, D17). -/
def Obligations.BusWriteDoes : Prop :=
  ∀ (s : State) (d : Byte), ConfigWf s.cfg → Memory.Wf s.mem →
    (∀ k : SprCell,
      memWrite (sprAddr s.cfg k) d s =
        .ok { setCell s k d with hist := .bus .write (sprAddr s.cfg k) d s.line s.frame :: s.hist } ∧
      getCell (setCell s k d) k = d ∧
      (∀ j, j ≠ k → getCell (setCell s k d) j = getCell s j) ∧
      (∀ m, m ≠ (sprAddr s.cfg k).toNat → Memory.read (setCell s k d).mem m = Memory.read s.mem m) ∧
      (setCell s k d) = { s with
        sprX := (setCell s k d).sprX, sprY := (setCell s k d).sprY, sprColor := (setCell s k d).sprColor
        sprEnable := (setCell s k d).sprEnable, sprMcm := (setCell s k d).sprMcm
        sprXmsb := (setCell s k d).sprXmsb, sprMc0 := (setCell s k d).sprMc0, sprMc1 := (setCell s k d).sprMc1
        mem := (setCell s k d).mem }) ∧
    memWrite s.cfg.aRasterHi d s = .error (.rasterWrite s.cfg.aRasterHi) ∧
    memWrite s.cfg.aRasterLo d s = .error (.rasterWrite s.cfg.aRasterLo) ∧
    (∀ addr : Addr, (∀ k, cellAddr s.cfg k ≠ addr) → memWrite addr d s = .error (.outsideBlockMap addr))

/-! ### RegisterAccess (40_register_access.md) -/

/-- `RD` (R90): `RES` takes the byte read, zero-extended, and nothing else of the device changes; the byte is what the
cell at the address shows now (10_state.md R30). -/
def Obligations.RdReturnsTheByteRead : Prop :=
  ∀ (s : State) (addr : Addr),
    decode (wordOf 0x0 0 addr 0) = .ok (.rd addr) ∧
    (∀ k, cellAt s.cfg addr = some k →
      exec (.rd addr) s = .next { s with
        res := 0#8 ++ readCell s k, busy := false, ph := .idle, draws := s.draws + drawsOfRead k
        hist := .completed (.rd addr) :: .bus .read addr (readCell s k) s.line s.frame :: s.hist } ∧
      (k = .rasterLo → readCell s k = s.line.extractLsb' 0 8) ∧
      (k = .rasterHi → ∃ c : BitVec 7, readCell s k = s.line.extractLsb' 8 1 ++ c) ∧
      (∀ j, k = .spr j → j.isColour = false → readCell s k = getCell s j) ∧
      (∀ j, k = .spr j → j.isColour = true → ∃ d : BitVec 4, readCell s k = d ++ (getCell s j).extractLsb' 0 4)) ∧
    (cellAt s.cfg addr = none → exec (.rd addr) s = .refused (.outsideBlockMap addr))

/-- `WR` (R91): the cell takes the byte. What else of the device stays is `BusWriteDoes`. -/
def Obligations.WrStoresTheByte : Prop :=
  ∀ (s : State) (addr : Addr) (value : Byte), Memory.Wf s.mem →
    decode (wordOf 0x1 0 addr (0#8 ++ value)) = .ok (.wr addr value) ∧
    (∀ k, cellAt s.cfg addr = some (.spr k) →
      exec (.wr addr value) s = .next { setCell s k value with
        busy := false, ph := .idle
        hist := .completed (.wr addr value) :: .bus .write addr value s.line s.frame :: s.hist } ∧
      getCell (setCell s k value) k = value ∧ (setCell s k value).res = s.res) ∧
    (cellAt s.cfg addr = some .rasterHi ∨ cellAt s.cfg addr = some .rasterLo →
      exec (.wr addr value) s = .refused (.rasterWrite addr)) ∧
    (cellAt s.cfg addr = none → exec (.wr addr value) s = .refused (.outsideBlockMap addr))

/-- `SETB` (R92; D12: the write is unconditional): the read into `v`, then the write of `v | (1 << bit)`,
whatever the cell holds by then. On a raster register the read is defined and the write-back refused. -/
def Obligations.SetbReadsThenSetsTheBit : Prop :=
  ∀ (s : State) (addr : Addr) (bit : Nat), bit < 8 →
    decode (wordOf 0x2 (BitVec.ofNat 3 bit) addr 0) = .ok (.setb addr bit) ∧
    (∀ k, s.ph ≠ .step 1 → cellAt s.cfg addr = some k →
      exec (.setb addr bit) s = .next { s with
        v := readCell s k, busy := true, ph := .step 1, draws := s.draws + drawsOfRead k
        hist := .bus .read addr (readCell s k) s.line s.frame :: s.hist }) ∧
    (∀ k, s.ph = .step 1 → cellAt s.cfg addr = some (.spr k) →
      exec (.setb addr bit) s = .next { setCell s k (s.v ||| 1#8 <<< bit) with
        busy := false, ph := .idle
        hist := .completed (.setb addr bit) :: .bus .write addr (s.v ||| 1#8 <<< bit) s.line s.frame :: s.hist }) ∧
    (s.ph = .step 1 → cellAt s.cfg addr = some .rasterHi ∨ cellAt s.cfg addr = some .rasterLo →
      exec (.setb addr bit) s = .refused (.rasterWrite addr)) ∧
    (cellAt s.cfg addr = none → exec (.setb addr bit) s = .refused (.outsideBlockMap addr))

/-- `CLRB` (R93): as `SETB`, with `v & ~(1 << bit)`. -/
def Obligations.ClrbReadsThenClearsTheBit : Prop :=
  ∀ (s : State) (addr : Addr) (bit : Nat), bit < 8 →
    decode (wordOf 0x3 (BitVec.ofNat 3 bit) addr 0) = .ok (.clrb addr bit) ∧
    (∀ k, s.ph ≠ .step 1 → cellAt s.cfg addr = some k →
      exec (.clrb addr bit) s = .next { s with
        v := readCell s k, busy := true, ph := .step 1, draws := s.draws + drawsOfRead k
        hist := .bus .read addr (readCell s k) s.line s.frame :: s.hist }) ∧
    (∀ k, s.ph = .step 1 → cellAt s.cfg addr = some (.spr k) →
      exec (.clrb addr bit) s = .next { setCell s k (s.v &&& ~~~(1#8 <<< bit)) with
        busy := false, ph := .idle
        hist := .completed (.clrb addr bit) :: .bus .write addr (s.v &&& ~~~(1#8 <<< bit)) s.line s.frame :: s.hist }) ∧
    (s.ph = .step 1 → cellAt s.cfg addr = some .rasterHi ∨ cellAt s.cfg addr = some .rasterLo →
      exec (.clrb addr bit) s = .refused (.rasterWrite addr)) ∧
    (cellAt s.cfg addr = none → exec (.clrb addr bit) s = .refused (.outsideBlockMap addr))

/-- `TSTB` (R94): `v` takes the byte read, `RES` the tested bit, and nothing is written to the cell. -/
def Obligations.TstbReturnsTheBit : Prop :=
  ∀ (s : State) (addr : Addr) (bit : Nat), bit < 8 →
    decode (wordOf 0x4 (BitVec.ofNat 3 bit) addr 0) = .ok (.tstb addr bit) ∧
    (∀ k, cellAt s.cfg addr = some k →
      exec (.tstb addr bit) s = .next { s with
        v := readCell s k, res := if (readCell s k).getLsbD bit then 1 else 0
        busy := false, ph := .idle, draws := s.draws + drawsOfRead k
        hist := .completed (.tstb addr bit) :: .bus .read addr (readCell s k) s.line s.frame :: s.hist }) ∧
    (cellAt s.cfg addr = none → exec (.tstb addr bit) s = .refused (.outsideBlockMap addr))

/-! ### SpriteEngine (41_sprite_engine.md) -/

/-- `SPR_EN` (R100): the read of `SPR_ENABLE` into `v`, then the write of `v` with bit `n` set or cleared. -/
def Obligations.SprEnWritesOneEnableBit : Prop :=
  ∀ (s : State) (n : Nat) (flag : Bool), ConfigWf s.cfg → n < 8 →
    decode (wordOf 0x5 (BitVec.ofNat 3 n) 0 (if flag then 1 else 0)) = .ok (.sprEn n flag) ∧
    (s.ph ≠ .step 1 → exec (.sprEn n flag) s = .next { s with
      v := s.sprEnable, busy := true, ph := .step 1
      hist := .bus .read s.cfg.aSprEnable s.sprEnable s.line s.frame :: s.hist }) ∧
    (s.ph = .step 1 → exec (.sprEn n flag) s = .next { s with
      sprEnable := if flag then s.v ||| 1#8 <<< n else s.v &&& ~~~(1#8 <<< n), busy := false, ph := .idle
      hist := .completed (.sprEn n flag) ::
        .bus .write s.cfg.aSprEnable (if flag then s.v ||| 1#8 <<< n else s.v &&& ~~~(1#8 <<< n)) s.line s.frame :: s.hist })

/-- `SPR_MC` (R101): as `SPR_EN`, on `SPR_MCM`. -/
def Obligations.SprMcWritesOneModeBit : Prop :=
  ∀ (s : State) (n : Nat) (flag : Bool), ConfigWf s.cfg → n < 8 →
    decode (wordOf 0x6 (BitVec.ofNat 3 n) 0 (if flag then 1 else 0)) = .ok (.sprMc n flag) ∧
    (s.ph ≠ .step 1 → exec (.sprMc n flag) s = .next { s with
      v := s.sprMcm, busy := true, ph := .step 1
      hist := .bus .read s.cfg.aSprMcm s.sprMcm s.line s.frame :: s.hist }) ∧
    (s.ph = .step 1 → exec (.sprMc n flag) s = .next { s with
      sprMcm := if flag then s.v ||| 1#8 <<< n else s.v &&& ~~~(1#8 <<< n), busy := false, ph := .idle
      hist := .completed (.sprMc n flag) ::
        .bus .write s.cfg.aSprMcm (if flag then s.v ||| 1#8 <<< n else s.v &&& ~~~(1#8 <<< n)) s.line s.frame :: s.hist })

/-- `SPR_BLK` (R102): the byte of memory at `A_PTR_BASE + n` takes the block index, every other byte stays, and
the slot's data block is `BANK_BASE + 64 * block` (R24). -/
def Obligations.SprBlkWritesThePointerByte : Prop :=
  ∀ (s : State) (n : Slot) (block : Byte), ConfigWf s.cfg → Memory.Wf s.mem →
    decode (wordOf 0x7 n 0 (0#8 ++ block)) = .ok (.sprBlk n.toNat block) ∧
    ∃ t, exec (.sprBlk n.toNat block) s = .next t ∧
      t = { s with
        mem := t.mem, busy := false, ph := .idle
        hist := .completed (.sprBlk n.toNat block) ::
          .bus .write (s.cfg.screenBase + s.cfg.ptrOffset + n.setWidth 16) block s.line s.frame :: s.hist } ∧
      (∀ m, Memory.read t.mem m =
        if m = s.cfg.screenBase.toNat + s.cfg.ptrOffset.toNat + n.toNat then block else Memory.read s.mem m) ∧
      getCell t (.ptr n) = block ∧ dataBlock t n = s.cfg.bankBase + 64 * block.setWidth 16

/-- `SPR_POS` (R103, in the order of D10): the low byte of the clamped x, the low byte of the clamped y, the read
of `SPR_XMSB` into `v`, and the write of `v` with bit `n` set iff the clamped x exceeds 255. -/
def Obligations.SprPosWritesThePosition : Prop :=
  ∀ (s : State) (n : Slot) (x y cx cy : Half), ConfigWf s.cfg →
    cx = (if x.slt 0 then 0 else x) → cy = (if y.slt 0 then 0 else y) →
    decode (wordOf 0x8 n x y) = .ok (.sprPos n.toNat x y) ∧
    (s.ph ≠ .step 1 → s.ph ≠ .step 2 → s.ph ≠ .step 3 → exec (.sprPos n.toNat x y) s = .next { s with
      sprX := s.sprX.set n.toNat (cx.extractLsb' 0 8), busy := true, ph := .step 1
      hist := .bus .write (s.cfg.aPosBase + 2 * n.setWidth 16) (cx.extractLsb' 0 8) s.line s.frame :: s.hist }) ∧
    (s.ph = .step 1 → exec (.sprPos n.toNat x y) s = .next { s with
      sprY := s.sprY.set n.toNat (cy.extractLsb' 0 8), busy := true, ph := .step 2
      hist := .bus .write (s.cfg.aPosBase + 2 * n.setWidth 16 + 1) (cy.extractLsb' 0 8) s.line s.frame :: s.hist }) ∧
    (s.ph = .step 2 → exec (.sprPos n.toNat x y) s = .next { s with
      v := s.sprXmsb, busy := true, ph := .step 3
      hist := .bus .read s.cfg.aXmsb s.sprXmsb s.line s.frame :: s.hist }) ∧
    (s.ph = .step 3 → exec (.sprPos n.toNat x y) s = .next { s with
      sprXmsb := if 255 < cx.toNat then s.v ||| 1#8 <<< n.toNat else s.v &&& ~~~(1#8 <<< n.toNat)
      busy := false, ph := .idle
      hist := .completed (.sprPos n.toNat x y) :: .bus .write s.cfg.aXmsb
        (if 255 < cx.toNat then s.v ||| 1#8 <<< n.toNat else s.v &&& ~~~(1#8 <<< n.toNat)) s.line s.frame :: s.hist })

/-- `SPR_COL` (R108). -/
def Obligations.SprColWritesTheColour : Prop :=
  ∀ (s : State) (n : Slot) (colour : Byte), ConfigWf s.cfg →
    decode (wordOf 0x9 n 0 (0#8 ++ colour)) = .ok (.sprCol n.toNat colour) ∧
    exec (.sprCol n.toNat colour) s = .next { s with
      sprColor := s.sprColor.set n.toNat colour, busy := false, ph := .idle
      hist := .completed (.sprCol n.toNat colour) ::
        .bus .write (s.cfg.aSprColorBase + n.setWidth 16) colour s.line s.frame :: s.hist }

/-- `SPR_CC` (R109; `a` first by D29). -/
def Obligations.SprCcWritesBothSharedColours : Prop :=
  ∀ (s : State) (ca cb : Byte), ConfigWf s.cfg →
    decode (wordOf 0xA 0 (0#8 ++ ca) (0#8 ++ cb)) = .ok (.sprCc ca cb) ∧
    (s.ph ≠ .step 1 → exec (.sprCc ca cb) s = .next { s with
      sprMc0 := ca, busy := true, ph := .step 1
      hist := .bus .write s.cfg.aSprMc0 ca s.line s.frame :: s.hist }) ∧
    (s.ph = .step 1 → exec (.sprCc ca cb) s = .next { s with
      sprMc1 := cb, busy := false, ph := .idle
      hist := .completed (.sprCc ca cb) :: .bus .write s.cfg.aSprMc1 cb s.line s.frame :: s.hist })

/-- `BLK_ADDR` (R110, D14): inside the bank the offset divided by 64, rounded down; outside, any byte. No bus
transaction. -/
def Obligations.BlkAddrDividesByBlockSize : Prop :=
  ∀ (s : State) (pointer : Addr),
    decode (wordOf 0xB 0 pointer 0) = .ok (.blkAddr pointer) ∧
    (s.cfg.bankBase.toNat ≤ pointer.toNat → pointer.toNat - s.cfg.bankBase.toNat < 16384 →
      exec (.blkAddr pointer) s = .next { s with
        res := BitVec.ofNat 16 ((pointer.toNat - s.cfg.bankBase.toNat) / 64), busy := false, ph := .idle
        hist := .completed (.blkAddr pointer) :: s.hist }) ∧
    (pointer.toNat < s.cfg.bankBase.toNat ∨ 16384 ≤ pointer.toNat - s.cfg.bankBase.toNat →
      ∃ d : Byte, exec (.blkAddr pointer) s = .next { s with
        res := d.setWidth 16, draws := s.draws + 1, busy := false, ph := .idle
        hist := .completed (.blkAddr pointer) :: s.hist })

/-! ### FrameScheduler (42_frame_scheduler.md) -/

/-- `RLINE` (R122, D5, D27), both read orders: the two reads, then `RES` takes the combined sample. -/
def Obligations.RlineReadsTwoRegisters : Prop :=
  ∀ s : State, ConfigWf s.cfg →
    (s.cfg.readOrder = .hiFirst →
      (s.ph ≠ .step 1 → ∃ c : BitVec 7, exec .rline s = .next { s with
        hi := s.line.extractLsb' 8 1 ++ c, busy := true, ph := .step 1, draws := s.draws + 1
        hist := .bus .read s.cfg.aRasterHi (s.line.extractLsb' 8 1 ++ c) s.line s.frame :: s.hist }) ∧
      (s.ph = .step 1 → exec .rline s = .next { s with
        lo := s.line.extractLsb' 0 8
        l := combineLine s.cfg.combine s.hi (s.line.extractLsb' 0 8)
        res := (combineLine s.cfg.combine s.hi (s.line.extractLsb' 0 8)).setWidth 16
        busy := false, ph := .idle
        hist := .completed .rline :: .bus .read s.cfg.aRasterLo (s.line.extractLsb' 0 8) s.line s.frame :: s.hist })) ∧
    (s.cfg.readOrder = .loFirst →
      (s.ph ≠ .step 1 → exec .rline s = .next { s with
        lo := s.line.extractLsb' 0 8, busy := true, ph := .step 1
        hist := .bus .read s.cfg.aRasterLo (s.line.extractLsb' 0 8) s.line s.frame :: s.hist }) ∧
      (s.ph = .step 1 → ∃ c : BitVec 7, exec .rline s = .next { s with
        hi := s.line.extractLsb' 8 1 ++ c
        l := combineLine s.cfg.combine (s.line.extractLsb' 8 1 ++ c) s.lo
        res := (combineLine s.cfg.combine (s.line.extractLsb' 8 1 ++ c) s.lo).setWidth 16
        busy := false, ph := .idle, draws := s.draws + 1
        hist := .completed .rline ::
          .bus .read s.cfg.aRasterHi (s.line.extractLsb' 8 1 ++ c) s.line s.frame :: s.hist }))

/-- The first read of each sample of `WAITF` (R124, R122): from `W_TEST`, `W_PHASE1` or `W_PHASE2` at `S0` (and from
any phase that is not one of `WAITF`'s, taken as `W_TEST`, log 12) to the same phase at `S1`. -/
def Obligations.WaitfFirstRead : Prop :=
  ∀ (s : State) (w : WaitPhase), ConfigWf s.cfg →
    (s.ph = .wait w .s0 ∨ (w = .test ∧ ∀ u sub, s.ph ≠ .wait u sub)) →
    (s.cfg.readOrder = .hiFirst → ∃ c : BitVec 7, exec .waitf s = .next { s with
      hi := s.line.extractLsb' 8 1 ++ c, busy := true, ph := .wait w .s1, draws := s.draws + 1
      hist := .bus .read s.cfg.aRasterHi (s.line.extractLsb' 8 1 ++ c) s.line s.frame :: s.hist }) ∧
    (s.cfg.readOrder = .loFirst → exec .waitf s = .next { s with
      lo := s.line.extractLsb' 0 8, busy := true, ph := .wait w .s1
      hist := .bus .read s.cfg.aRasterLo (s.line.extractLsb' 0 8) s.line s.frame :: s.hist })

/-- The second read of each sample of `WAITF` and the comparison that follows it (R124; the comparisons are D6), the next
state in full: one READ of the other register, `l` the combination, and `W_TEST` goes to `W_PHASE1` iff `l > T_LATE`,
`W_PHASE1` to `W_PHASE2` iff `l < T_LOW`, `W_PHASE2` completes iff `l >= T_BLANK`. -/
def Obligations.WaitfSecondReadAndCompare : Prop :=
  ∀ (s : State) (w : WaitPhase), ConfigWf s.cfg → s.ph = .wait w .s1 →
    ∃ (hi lo : Byte) (l : Line) (t : State) (done : Bool) (read : Event), exec .waitf s = .next t ∧
      (s.cfg.readOrder = .hiFirst → hi = s.hi ∧ lo = s.line.extractLsb' 0 8 ∧ t.draws = s.draws ∧
        read = .bus .read s.cfg.aRasterLo lo s.line s.frame) ∧
      (s.cfg.readOrder = .loFirst → lo = s.lo ∧ (∃ c : BitVec 7, hi = s.line.extractLsb' 8 1 ++ c) ∧
        t.draws = s.draws + 1 ∧ read = .bus .read s.cfg.aRasterHi hi s.line s.frame) ∧
      l = combineLine s.cfg.combine hi lo ∧
      done = (decide (w = .phase2) && decide (s.cfg.tBlank ≤ l.toNat)) ∧
      t = { s with
        hi := hi, lo := lo, l := l, draws := t.draws, busy := !done, ph := t.ph
        hist := if done then .completed .waitf :: read :: s.hist else read :: s.hist } ∧
      t.ph = (if done then .idle else .wait (match w with
        | .test => if s.cfg.tLate < l.toNat then .phase1 else .phase2
        | .phase1 => if l.toNat < s.cfg.tLow then .phase2 else .phase1
        | .phase2 => .phase2) .s0)

/-- RASTER (R120): a tick is `(L + 1) mod LINES`; the ticks after a step are as many as the schedule says and, where
it says nothing, some number (R4, log 8); nothing else moves with them but the model's own frame number, which counts
how often `L` becomes 0 (log 23); and no command writes `L` (R34). -/
def Obligations.RasterAloneWritesTheLine : Prop :=
  (∀ (lines : Nat) (line : Line), 0 < lines → lines ≤ 512 →
    (nextLine lines line).toNat = (line.toNat + 1) % lines) ∧
  (∀ (s : State) (k : Nat) (rest : List Nat), ConfigWf s.cfg → s.line.toNat < s.cfg.lines → s.sched = k :: rest →
    rasterTicks s = { s with
      sched := rest, line := BitVec.ofNat 9 ((s.line.toNat + k) % s.cfg.lines)
      frame := s.frame + (s.line.toNat + k) / s.cfg.lines }) ∧
  (∀ s : State, ConfigWf s.cfg → s.line.toNat < s.cfg.lines → s.sched = [] →
    ∃ k : Nat, rasterTicks s = { s with
      draws := s.draws + 1, line := BitVec.ofNat 9 ((s.line.toNat + k) % s.cfg.lines)
      frame := s.frame + (s.line.toNat + k) / s.cfg.lines }) ∧
  (∀ (i : Instr) (s t : State), exec i s = .next t → t.line = s.line ∧ t.frame = s.frame)

/-- `COMBINE` in its three modes (R121), as the formulas on bytes widened to nine bits; bits 6:0 of the high byte
never matter. -/
def Obligations.CombineFormulas : Prop :=
  ∀ hi lo : Byte,
    combineLine .nine hi lo = ((hi.setWidth 9 &&& 0x80) <<< 1) ||| lo.setWidth 9 ∧
    combineLine .orlow hi lo = ((hi.setWidth 9 &&& 0x80) >>> 7) ||| lo.setWidth 9 ∧
    combineLine .low8 hi lo = lo.setWidth 9 ∧
    (∀ (mode : Combine) (hi' : Byte), hi'.getLsbD 7 = hi.getLsbD 7 →
      combineLine mode hi' lo = combineLine mode hi lo)

/-- An untorn sample of line `L` (30_encoding.md R74; 42_frame_scheduler.md R122, R123 (a), (b)): `L` in mode
`NINE`, `L[7:0] | L[8]` in mode `ORLOW`, `L[7:0]` in mode `LOW8`, whatever `CTRL_HI` is. -/
def Obligations.UntornSampleShowsTheLine : Prop :=
  ∀ (line : Line) (c : BitVec 7),
    combineLine .nine (line.extractLsb' 8 1 ++ c) (line.extractLsb' 0 8) = line ∧
    (combineLine .orlow (line.extractLsb' 8 1 ++ c) (line.extractLsb' 0 8)).toNat =
      (line.toNat % 256) ||| (line.toNat / 256) ∧
    (combineLine .low8 (line.extractLsb' 8 1 ++ c) (line.extractLsb' 0 8)).toNat = line.toNat % 256

/-- One tick inside a sample (R123 (c)), `LINES = 312`, mode `NINE`: with the high byte first the sample is the
later line but for the tears 255 -> 256 (0) and 311 -> 0 (256); with the low byte first it is the earlier line but
for 511 and 55. -/
def Obligations.TornSampleTable : Prop :=
  ∀ (line : Line) (c : BitVec 7), line.toNat < 312 →
    (combineLine .nine (line.extractLsb' 8 1 ++ c) ((nextLine 312 line).extractLsb' 0 8)).toNat =
      (if line = 255 then 0 else if line = 311 then 256 else line.toNat + 1) ∧
    (combineLine .nine ((nextLine 312 line).extractLsb' 8 1 ++ c) (line.extractLsb' 0 8)).toNat =
      (if line = 255 then 511 else if line = 311 then 55 else line.toNat)

/-- `RLINE` as a whole: with the line at `s.line` when the first byte is read and at `later` when the second is
(R122, torn when they differ), `RES` is the combination of the two views; an untorn `RLINE` in mode `NINE` returns
the line. -/
def Obligations.RlineReturnsTheSample : Prop :=
  ∀ (s : State) (later : Line), ConfigWf s.cfg → s.ph ≠ .step 1 →
    ∃ t u, exec .rline s = .next t ∧ exec .rline { t with line := later } = .next u ∧ u.busy = false ∧
      (∃ c : BitVec 7, u.res = (match s.cfg.readOrder with
        | .hiFirst => combineLine s.cfg.combine (s.line.extractLsb' 8 1 ++ c) (later.extractLsb' 0 8)
        | .loFirst => combineLine s.cfg.combine (later.extractLsb' 8 1 ++ c) (s.line.extractLsb' 0 8)).setWidth 16) ∧
      (s.cfg.combine = .nine → later = s.line → u.res = s.line.setWidth 16)

/-- What the completion of `WAITF` guarantees (R127): the last sample reached `T_BLANK`; if it was untorn (the byte
read first shows the present line), the line is at or past `T_BLANK`, and in the 8-bit modes at most 255. -/
def Obligations.WaitfCompletesInTheBlankingWindow : Prop :=
  ∀ (s t : State) (c : BitVec 7), ConfigWf s.cfg → s.line.toNat < s.cfg.lines →
    exec .waitf s = .next t → t.busy = false →
    s.ph = .wait .phase2 .s1 ∧ t.ph = .idle ∧ s.cfg.tBlank ≤ t.l.toNat ∧
    ((s.cfg.readOrder = .hiFirst → s.hi = s.line.extractLsb' 8 1 ++ c) →
      (s.cfg.readOrder = .loFirst → s.lo = s.line.extractLsb' 0 8) →
      s.cfg.tBlank ≤ s.line.toNat ∧ (s.cfg.combine ≠ .nine → s.line.toNat ≤ 255))

/-- Why two phases (R125): from the test sample, every sample at or past `T_BLANK` ("inside or just past the target
line") leads into phase 1, so no call returns on the blanking interval it was issued in without a low sample. -/
def Obligations.LateTestSampleEntersPhaseOne : Prop :=
  ∀ s t : State, ConfigWf s.cfg → s.ph = .wait .test .s1 → exec .waitf s = .next t → s.cfg.tBlank ≤ t.l.toNat →
    t.ph = .wait .phase1 .s0 ∧ t.busy = true

/-- In the 8-bit modes no untorn sample of a line past 255 completes the wait, and for a line up to 255 `ORLOW`
equals `LOW8` (R131). -/
def Obligations.EightBitSamplePastLine255NeverCompletes : Prop :=
  ∀ (cfg : Config) (line : Line) (c : BitVec 7), ConfigWf cfg → cfg.combine ≠ .nine → line.toNat < cfg.lines →
    (256 ≤ line.toNat →
      (combineLine cfg.combine (line.extractLsb' 8 1 ++ c) (line.extractLsb' 0 8)).toNat < cfg.tBlank) ∧
    (line.toNat < 256 →
      combineLine .orlow (line.extractLsb' 8 1 ++ c) (line.extractLsb' 0 8) =
        combineLine .low8 (line.extractLsb' 8 1 ++ c) (line.extractLsb' 0 8))

/-- No timeout (R126, R169): if RASTER has stopped, `WAITF` issues reads for as long as one looks, `BUSY` stays 1,
and HOST presents no further command; in every mode and at every line. -/
def Obligations.WaitfHangsWhenRasterStops : Prop :=
  ∀ (s : State) (rest : List CmdWord) (m : Nat), ConfigWf s.cfg → s.busy = false →
    s.host = encode .waitf :: rest → s.sched = List.replicate (m + 1) 0 →
    ∃ t, Host.Core.run Sys2Proof.core (m + 1) s = .next t ∧ t.busy = true ∧ t.host = rest ∧ t.line = s.line ∧
      t.res = s.res ∧ (busTrace t.hist).length = (busTrace s.hist).length + (m + 1)

/-- `WAITF` completes within two frames (R170, D25), in every mode and both read orders, if RASTER keeps ticking, the ticks
between two consecutive samples (none is allowed) never exceed `POLL_MAX`, and `POLL_MAX <= min(T_LOW, W)`. Two premises
are the model's, not R170's, and R170's conclusion fails without either (`PollBoundAloneDoesNotSuffice`): the poll fits the
narrower 8-bit window of a frame of fewer than 256 lines (DEDUCED, log 21), and no tear matters (DEDUCED, log 22). `ps`
says how many ticks fall inside and after each sample; the frames are counted from the first sample. -/
def Obligations.WaitfCompletesWithinTwoFrames : Prop :=
  ∀ (s : State) (rest : List CmdWord) (ps : List (Nat × Nat)) (pollMax : Nat),
    ConfigWf s.cfg → s.line.toNat < s.cfg.lines → s.busy = false → s.host = encode .waitf :: rest →
    s.sched = sampleSchedule ps → 2 * s.cfg.lines ≤ (sampleGaps s.cfg.readOrder ps).sum →
    (∀ k ∈ sampleGaps s.cfg.readOrder ps, k ≤ pollMax) → PollBound s.cfg pollMax →
    PollFitsShortFrame s.cfg pollMax → cleanSamples s.cfg s.line.toNat ps = true →
    ∃ j t, j < ps.length ∧ Host.Core.run Sys2Proof.core (2 * (j + 1)) s = .next t ∧ t.busy = false ∧
      t.host = rest ∧ t.hist.head? = some (.completed .waitf) ∧ s.cfg.tBlank ≤ t.l.toNat ∧
      ((sampleGaps s.cfg.readOrder ps).take j).sum ≤ 2 * s.cfg.lines

/-- Pacing (R130), untorn samples, in every mode: a `WAITF` accepted at or past `T_BLANK` is still waiting after every
sample taken before the line reaches `T_BLANK` of the next frame, so it never completes in the same frame. In the 8-bit
modes that covers the apparent wrap at `L = 256`, "from where no sample reaches `T_BLANK` before the next frame" (R131),
and a `WAITF` accepted past it. -/
def Obligations.WaitfNeverCompletesTwiceInAFrame : Prop :=
  ∀ (s : State) (rest : List CmdWord) (ks : List Nat) (j : Nat), ConfigWf s.cfg →
    s.line.toNat < s.cfg.lines → s.cfg.tBlank ≤ s.line.toNat → s.busy = false → s.host = encode .waitf :: rest →
    s.sched = untornSchedule ks → j < ks.length →
    s.line.toNat + (ks.take j).sum < s.cfg.lines + s.cfg.tBlank →
    ∃ t, Host.Core.run Sys2Proof.core (2 * (j + 1)) s = .next t ∧ t.busy = true ∧ t.host = rest

/-- The blanking interval has `LINES - T_BLANK + V_FIRST` lines (R129, D24). -/
def Obligations.BlankingIntervalLength : Prop :=
  ∀ c : Config, ConfigWf c →
    ((List.range c.lines).filter (inBlank c)).length = c.lines - c.tBlank + c.vFirst

/-! ### Sprite positions and pointers as the device sees them -/

/-- The clamp (41_sprite_engine.md R104, D8): a negative coordinate becomes 0, any other is unchanged. -/
def Obligations.ClampZeroesNegatives : Prop :=
  ∀ x : Half, (x.toInt < 0 → clampNeg x = 0) ∧ (0 ≤ x.toInt → clampNeg x = x)

/-- A whole `SPR_POS`, run by the machine in four steps with RASTER ticking as it will: the device position is exact
up to 511 and 255 and wraps beyond (41_sprite_engine.md R105; 30_encoding.md R73); the other slots' positions and
`RES` stay. -/
def Obligations.SprPosGivesTheDevicePosition : Prop :=
  ∀ (s : State) (n : Slot) (x y cx cy : Half) (rest : List CmdWord), ConfigWf s.cfg → s.busy = false →
    s.host = encode (.sprPos n.toNat x y) :: rest →
    cx = (if x.slt 0 then 0 else x) → cy = (if y.slt 0 then 0 else y) →
    ∃ t, Host.Core.run Sys2Proof.core 4 s = .next t ∧ t.busy = false ∧ t.host = rest ∧ t.res = s.res ∧
      (x9 t n).toNat = (if cx.toNat ≤ 511 then cx.toNat else 256 + cx.toNat % 256) ∧
      (y8 t n).toNat = cy.toNat % 256 ∧
      (∀ m, m ≠ n → x9 t m = x9 s m ∧ y8 t m = y8 s m)

/-- The intermediate positions of `SPR_POS` (41_sprite_engine.md R106; the order is D10): after step 1 the new low
byte with the old bit 8 and the old y, after step 2 the new y too. -/
def Obligations.SprPosIntermediatePositions : Prop :=
  ∀ (s : State) (n : Slot) (x y : Half), ConfigWf s.cfg → s.ph = .step 0 →
    ∃ t u w, exec (.sprPos n.toNat x y) s = .next t ∧ exec (.sprPos n.toNat x y) t = .next u ∧
      exec (.sprPos n.toNat x y) u = .next w ∧
      x9 t n = s.sprXmsb.extractLsb' n.toNat 1 ++ posLow (clampNeg x) ∧ y8 t n = y8 s n ∧
      x9 u n = x9 t n ∧ y8 u n = posLow (clampNeg y) ∧ x9 w n = x9 u n ∧ y8 w n = y8 u n

/-- Each bit of a mask register is one slot's own lane (41_sprite_engine.md R114): `SPR_EN`, `SPR_MC` and `SPR_POS` read
all eight lanes into `v` in one step, and in the next write lane `n` and re-write the other seven as `v` has them. -/
def Obligations.MaskLanesAreIndependent : Prop :=
  ∀ (s : State) (n : Slot) (flag : Bool) (x y : Half) (j : Nat), ConfigWf s.cfg → j < 8 →
    (s.ph ≠ .step 1 →
      (∃ t, exec (.sprEn n.toNat flag) s = .next t ∧ t.v = s.sprEnable ∧ t.sprEnable = s.sprEnable ∧ t.ph = .step 1) ∧
      (∃ t, exec (.sprMc n.toNat flag) s = .next t ∧ t.v = s.sprMcm ∧ t.sprMcm = s.sprMcm ∧ t.ph = .step 1)) ∧
    (s.ph = .step 1 →
      (∃ t, exec (.sprEn n.toNat flag) s = .next t ∧
        t.sprEnable.getLsbD j = if j = n.toNat then flag else s.v.getLsbD j) ∧
      (∃ t, exec (.sprMc n.toNat flag) s = .next t ∧
        t.sprMcm.getLsbD j = if j = n.toNat then flag else s.v.getLsbD j)) ∧
    (s.ph = .step 2 →
      ∃ t, exec (.sprPos n.toNat x y) s = .next t ∧ t.v = s.sprXmsb ∧ t.sprXmsb = s.sprXmsb ∧ t.ph = .step 3) ∧
    (s.ph = .step 3 →
      ∃ t, exec (.sprPos n.toNat x y) s = .next t ∧
        t.sprXmsb.getLsbD j = if j = n.toNat then decide (255 < x.toInt) else s.v.getLsbD j)

/-- `BLK_ADDR` followed by `SPR_BLK` of the byte it gave makes the slot's data block the pointer exactly when the
pointer is 64-aligned inside the bank (41_sprite_engine.md R110; 30_encoding.md R75), whatever is drawn outside. -/
def Obligations.BlkAddrThenSprBlkRoundTrip : Prop :=
  ∀ (s : State) (n : Slot) (pointer : Addr), ConfigWf s.cfg → Memory.Wf s.mem →
    ∃ t u, exec (.blkAddr pointer) s = .next t ∧ exec (.sprBlk n.toNat (t.res.extractLsb' 0 8)) t = .next u ∧
      (dataBlock u n = pointer ↔
        s.cfg.bankBase.toNat ≤ pointer.toNat ∧ pointer.toNat - s.cfg.bankBase.toNat < 16384 ∧
          (pointer.toNat - s.cfg.bankBase.toNat) % 64 = 0)

/-! ### Forms that stop -/

/-- An object or bit index above 7, which no word encodes, is refused (41_sprite_engine.md R113; U3, U4). -/
def Obligations.IndexAboveSevenIsRefused : Prop :=
  ∀ (s : State) (n : Nat) (addr : Addr) (flag : Bool) (d : Byte) (x y : Half), 8 ≤ n →
    exec (.setb addr n) s = .refused (.indexAbove7 n) ∧ exec (.clrb addr n) s = .refused (.indexAbove7 n) ∧
    exec (.tstb addr n) s = .refused (.indexAbove7 n) ∧ exec (.sprEn n flag) s = .refused (.indexAbove7 n) ∧
    exec (.sprMc n flag) s = .refused (.indexAbove7 n) ∧ exec (.sprBlk n d) s = .refused (.indexAbove7 n) ∧
    exec (.sprPos n x y) s = .refused (.indexAbove7 n) ∧ exec (.sprCol n d) s = .refused (.indexAbove7 n)

/-- The only refusals of a step from a state that meets the invariant (60_exceptions.md R155): a reserved word on
`CMD`, a transaction outside the block map, a write to a raster register. -/
def Obligations.StepRefusesOnlyWhatTheSpecRefuses : Prop :=
  ∀ (s : State) (r : Refusal), Inv s → step s = .refused r →
    (∃ w rest why, s.busy = false ∧ s.host = w :: rest ∧ decode w = .error why ∧ r = .reservedWord w why) ∨
    (∃ addr, cellAt s.cfg addr = none ∧ r = .outsideBlockMap addr) ∨
    (∃ addr, (cellAt s.cfg addr = some .rasterHi ∨ cellAt s.cfg addr = some .rasterLo) ∧ r = .rasterWrite addr)

/-! ### Frames -/

/-- No command writes the configuration, the raster line or the frame number, HOST's words, the schedule or the command
latches (10_state.md R11, R34, R36). -/
def Obligations.ExecFrameOfConstants : Prop :=
  ∀ (i : Instr) (s t : State), exec i s = .next t →
    t.cfg = s.cfg ∧ t.line = s.line ∧ t.frame = s.frame ∧ t.host = s.host ∧ t.sched = s.sched ∧
    t.op = s.op ∧ t.n = s.n ∧ t.a = s.a ∧ t.b = s.b

/-- `RES` is written only by `RD`, `TSTB`, `BLK_ADDR` and `RLINE` (10_state.md R12), `v` only by the read-modify-writes
and `TSTB`, `hi`, `lo` and `l` only by `RLINE` and `WAITF` (R15). -/
def Obligations.ExecFrameOfRegisters : Prop :=
  ∀ (i : Instr) (s t : State), exec i s = .next t →
    (writesRes i = false → t.res = s.res) ∧ (writesV i = false → t.v = s.v) ∧
    (samples i = false → t.hi = s.hi ∧ t.lo = s.lo ∧ t.l = s.l)

/-- A step that stores nothing (`RD`, `TSTB`, `BLK_ADDR`, `RLINE`, `WAITF`, and the reading step of a
read-modify-write) leaves every cell and every byte of memory alone (20_memory.md R45; 10_state.md R35). -/
def Obligations.LoadsLeaveEveryCell : Prop :=
  ∀ (i : Instr) (s t : State), exec i s = .next t → storeAddr i s = none →
    (∀ k, getCell t k = getCell s k) ∧ (∀ m, Memory.read t.mem m = Memory.read s.mem m)

/-- A step that stores changes the one cell at the address it stores to, `storeAddr i s` (computed by the expressions
the meanings use), and no other cell and no other byte of memory (10_state.md R31, R35). -/
def Obligations.StoresChangeOneCell : Prop :=
  ∀ (i : Instr) (s t : State) (addr : Addr), ConfigWf s.cfg → exec i s = .next t → storeAddr i s = some addr →
    (∃ k, sprAddr s.cfg k = addr) ∧
    (∀ k, sprAddr s.cfg k ≠ addr → getCell t k = getCell s k) ∧
    (∀ m, m ≠ addr.toNat → Memory.read t.mem m = Memory.read s.mem m)

/-- Each SEQ step is one bus transaction (none for `BLK_ADDR`), recorded in front of the history, which is never
rewritten (00_scope.md R3, R9; 20_memory.md R44, R45). -/
def Obligations.OneTransactionPerStep : Prop :=
  ∀ (i : Instr) (s t : State), exec i s = .next t →
    ∃ new, t.hist = new ++ s.hist ∧ (busTrace new).length = if i.opNumber = 0xB then 0 else 1

/-- Only the completion of `WAITF` opens the next commit window (42_frame_scheduler.md R128). -/
def Obligations.OnlyWaitfOpensACommitWindow : Prop :=
  ∀ (i : Instr) (s t : State), exec i s = .next t →
    gateReturns t.hist = gateReturns s.hist + if i = .waitf ∧ t.busy = false then 1 else 0

/-! ### Whole commands -/

/-- A command always completes except `WAITF` (00_scope.md R2), in one step per bus transaction (20_memory.md R44; one
for `BLK_ADDR`), whatever RASTER does meanwhile, if its absolute operand is a cell it may use. That acceptance takes no
step of its own is the model's choice (DESIGN CHOICE, log 9). -/
def Obligations.EveryCommandButWaitfCompletes : Prop :=
  ∀ (s : State) (i : Instr) (rest : List CmdWord), ConfigWf s.cfg → s.busy = false → s.host = encode i :: rest →
    i.wellFormed = true → i ≠ .waitf → OperandMapped s.cfg i →
    ∃ t, Host.Core.run Sys2Proof.core (seqSteps i) s = .next t ∧ t.busy = false ∧ t.ph = .idle ∧ t.host = rest ∧
      t.hist.head? = some (.completed i) ∧
      (busTrace t.hist).length = (busTrace s.hist).length + transactions i

/-- `SPR_EN`, `SPR_MC`, `SPR_BLK`, `SPR_COL`, `SPR_CC` and `SPR_POS` have the bus behaviour of the sequences of
primitives that 30_encoding.md R84 gives for them: the same cells, registers, line and bus transactions after the
same number of steps, under the same ticks; only the command latches and the names in the history differ. -/
def Obligations.SpriteCommandsAreMacros : Prop :=
  ∀ (s : State) (n : Slot) (flag : Bool) (d e : Byte) (x y : Half) (rest : List CmdWord),
    ConfigWf s.cfg → s.busy = false →
    (∀ (k : Nat) (i : Instr) (is : List Instr),
      (k, i, is) ∈
        [(2, Instr.sprEn n.toNat flag,
            [if flag then Instr.setb s.cfg.aSprEnable n.toNat else .clrb s.cfg.aSprEnable n.toNat]),
         (2, .sprMc n.toNat flag, [if flag then .setb s.cfg.aSprMcm n.toNat else .clrb s.cfg.aSprMcm n.toNat]),
         (1, .sprBlk n.toNat d, [.wr (s.cfg.aPtrBase + n.setWidth 16) d]),
         (1, .sprCol n.toNat d, [.wr (s.cfg.aSprColorBase + n.setWidth 16) d]),
         (2, .sprCc d e, [.wr s.cfg.aSprMc0 d, .wr s.cfg.aSprMc1 e]),
         (4, .sprPos n.toNat x y,
            [.wr (s.cfg.aPosBase + 2 * n.setWidth 16) (posLow (clampNeg x)),
             .wr (s.cfg.aPosBase + 2 * n.setWidth 16 + 1) (posLow (clampNeg y)),
             if posHigh (clampNeg x) then .setb s.cfg.aXmsb n.toNat else .clrb s.cfg.aXmsb n.toNat])] →
      ∃ t u, Host.Core.run Sys2Proof.core k { s with host := encode i :: rest } = .next t ∧
        Host.Core.run Sys2Proof.core k { s with host := is.map encode ++ rest } = .next u ∧
        t.host = rest ∧ t.busy = false ∧ SameBusBehaviour t u)

/-! ### Reset and the invariant -/

/-- The model's reset state is one of the spec's reset states (10_state.md R38): idle, `L` in range. Its zeros and its
configuration are the model's choice (logs 1, 3 to 6). -/
def Obligations.ResetIsAResetState : Prop :=
  IsReset State.reset

/-- Every reset state of the spec, whatever its unspecified values, meets the invariant. -/
def Obligations.ResetStatesMeetTheInvariant : Prop :=
  ∀ s : State, IsReset s → Inv s

/-- Every step keeps the invariant: the configuration well-formed, `L` in 0..`LINES`-1, memory canonical and inside the
pointer block, `BUSY` 0 exactly in `IDLE`, and `PH` always a phase of the command in the latches. -/
def Obligations.StepKeepsTheInvariant : Prop :=
  ∀ s t : State, Inv s → step s = .next t → Inv t

/-! ### The poll bound, blanking intervals and commit windows -/

/-- R170's bound alone does not suffice, so the two further premises of `WaitfCompletesWithinTwoFrames` are needed. With
`POLL_MAX = min(T_LOW, W)`, RASTER ticking at that rate and every sample untorn, an 8-bit `WAITF` never completes in a
frame of 4 lines whose window is line 3 (log 21). In mode `NINE` under REF but `T_LOW = 61`, high byte first, one sample
a frame torn at 255 -> 256 and none more than 61 ticks after the one before, it never completes either (log 22). -/
def Obligations.PollBoundAloneDoesNotSuffice : Prop :=
  ∀ (s : State) (rest : List CmdWord) (n : Nat), s.busy = false → s.host = encode .waitf :: rest →
    (s.cfg = { Config.ref with
        combine := .low8, lines := 4, tLate := 1, tLow := 2, tBlank := 3, vFirst := 1, pollMax := some 2 } →
      s.line = 0 → s.sched = untornSchedule (List.replicate (n + 1) 2) →
      ConfigWf s.cfg ∧ PollBound s.cfg 2 ∧ (∀ k ∈ sampleGaps s.cfg.readOrder (List.replicate (n + 1) (0, 2)), k ≤ 2) ∧
      ∃ t, Host.Core.run Sys2Proof.core (2 * (n + 1)) s = .next t ∧ t.busy = true ∧ t.host = rest) ∧
    (s.cfg = { Config.ref with tLow := 61, pollMax := some 61 } → s.line = 5 →
      s.sched = sampleSchedule
        (List.replicate (n + 1) [(0, 61), (0, 61), (0, 61), (0, 61), (0, 6), (1, 61)]).flatten →
      ConfigWf s.cfg ∧ PollBound s.cfg 61 ∧ PollFitsShortFrame s.cfg 61 ∧
      (∀ k ∈ sampleGaps s.cfg.readOrder
        (List.replicate (n + 1) [(0, 61), (0, 61), (0, 61), (0, 61), (0, 6), (1, 61)]).flatten, k ≤ 61) ∧
      ∃ t, Host.Core.run Sys2Proof.core (12 * (n + 1)) s = .next t ∧ t.busy = true ∧ t.host = rest)

/-- Which blanking interval a step falls in (R129, D24), after any number of ticks from a line of it: the same one for
as many ticks as lines are left of it, and no blanking interval at the next tick, when `L` is `V_FIRST`. Outside
`in_blank` there is none. Frames are counted as in the history (log 23). -/
def Obligations.BlankingIntervalLastsUntilScanOut : Prop :=
  ∀ (c : Config) (frame line : Nat), ConfigWf c → line < c.lines →
    (inBlank c line = false → blankingInterval c frame line = none ∧ blankLeft c line = 0) ∧
    (inBlank c line = true → ∃ b, blankingInterval c frame line = some b ∧
      (∀ k, blankingInterval c (frame + (line + k) / c.lines) ((line + k) % c.lines) = some b ↔ k < blankLeft c line) ∧
      (∀ k, k < blankLeft c line → inBlank c ((line + k) % c.lines) = true) ∧
      (line + blankLeft c line) % c.lines = c.vFirst ∧ inBlank c c.vFirst = false)

/-- A whole update in one blanking interval (70_reset_and_hazards.md R167): from a state right after `WAITF` has completed,
every bus write of the commit window then open falls in the same blanking interval, if the ticks before the last step
are fewer than the lines left of it ("ends before `L` reaches `V_FIRST`"). Whatever commands HOST issues meanwhile. That
a frame's update is the writes of one commit window, in one interval, is DEDUCED (log 24). -/
def Obligations.UpdateEndingBeforeScanOutIsInOneBlank : Prop :=
  ∀ (s t : State) (m : Nat), ConfigWf s.cfg → s.line.toNat < s.cfg.lines →
    s.hist.head? = some (.completed .waitf) → m ≤ s.sched.length →
    (s.sched.take (m - 1)).sum < blankLeft s.cfg s.line.toNat →
    Host.Core.run Sys2Proof.core m s = .next t → UpdateInOneBlank s.cfg (gateReturns s.hist) t.hist

/-- An accepted command joins the commit window that is open, and no other (R128); before `WAITF` has first completed
it joins none (70_reset_and_hazards.md R171). -/
def Obligations.AcceptedCommandJoinsTheOpenWindow : Prop :=
  ∀ (s t : State) (w : CmdWord) (rest : List CmdWord) (i : Instr), s.busy = false → s.host = w :: rest →
    decode w = .ok i → step s = .next t →
    (gateReturns s.hist = 0 →
      beforeFirstWindow t.hist = i :: beforeFirstWindow s.hist ∧
      ∀ k, commitWindow k t.hist = commitWindow k s.hist) ∧
    (gateReturns s.hist ≠ 0 →
      beforeFirstWindow t.hist = beforeFirstWindow s.hist ∧
      ∀ k, commitWindow k t.hist = if k = gateReturns s.hist then i :: commitWindow k s.hist else commitWindow k s.hist)
end

