-- ==== Sys2Proof/Laws/Layout.lean ====
section
/-! SUPPORT. The block map: under a well-formed configuration `cellAt` is the inverse of `cellAddr`
(20_memory.md R46). -/

namespace Sys2Proof.Machine

/-- An address below offset 8 of an array is the address of its slot. -/
theorem eaIndexed_slotOf {base addr : Addr} (h : offsetFrom base addr < 8) :
    eaIndexed base (slotOf (offsetFrom base addr)) = addr := by
  have h' := BitVec.lt_def.1 h
  apply BitVec.eq_of_toNat_eq
  have ha := addr.isLt
  have hb := base.isLt
  simp only [eaIndexed, slotOf, offsetFrom, BitVec.toNat_add, BitVec.toNat_setWidth, BitVec.toNat_sub,
    BitVec.reduceToNat] at h' ⊢
  omega

/-- An address below offset 16 of the position pairs is the address of an x or a y register, by its parity. -/
theorem eaPos_slotOf {c : Config} {addr : Addr} (h : offsetFrom c.aPosBase addr < 16) :
    (if (offsetFrom c.aPosBase addr).getLsbD 0 then eaPosY c (slotOf (offsetFrom c.aPosBase addr >>> 1))
      else eaPosX c (slotOf (offsetFrom c.aPosBase addr >>> 1))) = addr := by
  have h' := BitVec.lt_def.1 h
  have ha := addr.isLt
  have hb := c.aPosBase.isLt
  split <;> rename_i hbit <;> apply BitVec.eq_of_toNat_eq
  all_goals
    simp only [BitVec.getLsbD, Nat.testBit_zero, decide_eq_true_eq] at hbit
    simp only [eaPosX, eaPosY, slotOf, offsetFrom, BitVec.toNat_add, BitVec.toNat_mul, BitVec.toNat_setWidth,
      BitVec.toNat_sub, BitVec.reduceToNat, BitVec.toNat_ushiftRight, Nat.shiftRight_eq_div_pow] at h' hbit ⊢
    omega

/-- The cell found at an address has that address, in every configuration. -/
theorem cellAddr_of_cellAt {c : Config} {addr : Addr} {k : Cell} (h : cellAt c addr = some k) :
    cellAddr c k = addr := by
  unfold cellAt at h
  repeat' split at h
  all_goals first
    | (obtain rfl := Option.some.inj h)
    | cases h
  all_goals simp only [cellAddr, sprAddr, eaColor, eaPtr]
  all_goals first
    | exact (by assumption : addr = _).symm
    | exact eaIndexed_slotOf (by assumption)
    | skip
  · next hlt hbit => exact (if_pos hbit).symm.trans (eaPos_slotOf hlt)
  · next hlt hbit => exact (if_neg hbit).symm.trans (eaPos_slotOf hlt)

/-- The address of a cell is inside the block map, in every configuration. -/
theorem cellAt_cellAddr_ne_none (c : Config) (k : Cell) : cellAt c (cellAddr c k) ≠ none := by
  have hpos : ∀ n : Slot, offsetFrom c.aPosBase (eaPosX c n) < 16 ∧ offsetFrom c.aPosBase (eaPosY c n) < 16 := by
    intro n
    have hn := n.isLt
    have hb := c.aPosBase.isLt
    simp only [BitVec.lt_def, eaPosX, eaPosY, offsetFrom, BitVec.toNat_add, BitVec.toNat_mul, BitVec.toNat_setWidth,
      BitVec.toNat_sub, BitVec.reduceToNat]
    omega
  have harr : ∀ (base : Addr) (n : Slot), offsetFrom base (eaIndexed base n) < 8 := by
    intro base n
    have hn := n.isLt
    have hb := base.isLt
    simp only [BitVec.lt_def, eaIndexed, offsetFrom, BitVec.toNat_add, BitVec.toNat_setWidth,
      BitVec.toNat_sub, BitVec.reduceToNat]
    omega
  intro h
  unfold cellAt at h
  repeat' split at h
  all_goals cases h
  cases k with
  | spr k =>
    cases k with
    | x n => exact absurd (hpos n).1 (by assumption)
    | y n => exact absurd (hpos n).2 (by assumption)
    | ptr n => exact absurd (harr c.aPtrBase n) (by assumption)
    | color n => exact absurd (harr c.aSprColorBase n) (by assumption)
    | _ => exact absurd rfl (by assumption)
  | _ => exact absurd rfl (by assumption)

/-- Which span of the block map a cell lies in. -/
def spanIndex : Cell → Nat
  | .spr (.x _) => 0
  | .spr (.y _) => 0
  | .spr .xmsb => 1
  | .rasterHi => 2
  | .rasterLo => 3
  | .spr .enable => 4
  | .spr .mcm => 5
  | .spr .mc0 => 6
  | .spr .mc1 => 7
  | .spr (.color _) => 8
  | .spr (.ptr _) => 9

/-- The offset of a cell in its span. -/
def spanOffset : Cell → Nat
  | .spr (.x n) => 2 * n.toNat
  | .spr (.y n) => 2 * n.toNat + 1
  | .spr (.color n) => n.toNat
  | .spr (.ptr n) => n.toNat
  | _ => 0

/-- A cell's address, as a number: its span's first address and its offset; no wrap-around. -/
theorem cellAddr_toNat {c : Config} (h : MapWf c) (k : Cell) :
    ∃ p, (spans c)[spanIndex k]? = some p ∧ (cellAddr c k).toNat = p.1 + spanOffset k ∧ spanOffset k < p.2 := by
  have hb := h.2
  simp only [spans, List.mem_cons, List.not_mem_nil, or_false, forall_eq_or_imp, forall_eq] at hb
  have key : ∀ (n : Slot), n.toNat < 8 := fun n => n.isLt
  cases k with
  | spr k =>
    cases k with
    | x n | y n | ptr n | color n =>
      have hn := key n
      refine ⟨_, rfl, ?_, ?_⟩ <;>
        simp only [cellAddr, sprAddr, eaPosX, eaPosY, eaPtr, eaColor, eaIndexed, Config.aPtrBase, spanOffset,
          BitVec.toNat_add, BitVec.toNat_mul, BitVec.toNat_setWidth, BitVec.reduceToNat] <;> omega
    | _ => exact ⟨_, rfl, rfl, Nat.one_pos⟩
  | _ => exact ⟨_, rfl, rfl, Nat.one_pos⟩

/-- Two cells of one span with one offset are the same cell. -/
theorem cell_eq_of_span {j k : Cell} (hi : spanIndex j = spanIndex k) (ho : spanOffset j = spanOffset k) : j = k := by
  have e : ∀ {m n : Slot}, m.toNat = n.toNat → m = n := fun h => BitVec.eq_of_toNat_eq h
  rcases j with (⟨m⟩ | ⟨m⟩ | ⟨m⟩ | ⟨m⟩ | _ | _ | _ | _ | _) | _ | _ <;>
    rcases k with (⟨n⟩ | ⟨n⟩ | ⟨n⟩ | ⟨n⟩ | _ | _ | _ | _ | _) | _ | _ <;>
    simp only [spanIndex, spanOffset] at hi ho <;>
    first
      | rfl
      | (exfalso; omega)
      | rw [e (by omega : m.toNat = n.toNat)]

/-- No two cells share an address (20_memory.md R46). -/
theorem cellAddr_inj {c : Config} (h : MapWf c) {j k : Cell} (e : cellAddr c j = cellAddr c k) : j = k := by
  obtain ⟨p, hp, hpa, hpl⟩ := cellAddr_toNat h j
  obtain ⟨q, hq, hqa, hql⟩ := cellAddr_toNat h k
  have hpw := List.pairwise_iff_getElem.1 h.1
  obtain ⟨hpi, rfl⟩ := List.getElem?_eq_some_iff.1 hp
  obtain ⟨hqi, rfl⟩ := List.getElem?_eq_some_iff.1 hq
  rw [e] at hpa
  rcases Nat.lt_trichotomy (spanIndex j) (spanIndex k) with hlt | heq | hlt
  · have := hpw _ _ hpi hqi hlt
    simp only [SpansApart] at this
    omega
  · simp only [heq] at hpa hpl
    exact cell_eq_of_span heq (by omega)
  · have := hpw _ _ hqi hpi hlt
    simp only [SpansApart] at this
    omega

/-- The cell at a cell's address is that cell. -/
theorem cellAt_cellAddr {c : Config} (h : MapWf c) (k : Cell) : cellAt c (cellAddr c k) = some k := by
  cases hc : cellAt c (cellAddr c k) with
  | none => exact absurd hc (cellAt_cellAddr_ne_none c k)
  | some j => rw [cellAddr_inj h (cellAddr_of_cellAt hc)]

/-! The same, cell by cell, in the forms the meanings use. -/

theorem cellAt_enable {c : Config} (h : MapWf c) : cellAt c c.aSprEnable = some (.spr .enable) := cellAt_cellAddr h (.spr .enable)
theorem cellAt_mcm {c : Config} (h : MapWf c) : cellAt c c.aSprMcm = some (.spr .mcm) := cellAt_cellAddr h (.spr .mcm)
theorem cellAt_xmsb {c : Config} (h : MapWf c) : cellAt c c.aXmsb = some (.spr .xmsb) := cellAt_cellAddr h (.spr .xmsb)
theorem cellAt_mc0 {c : Config} (h : MapWf c) : cellAt c c.aSprMc0 = some (.spr .mc0) := cellAt_cellAddr h (.spr .mc0)
theorem cellAt_mc1 {c : Config} (h : MapWf c) : cellAt c c.aSprMc1 = some (.spr .mc1) := cellAt_cellAddr h (.spr .mc1)
theorem cellAt_rasterHi {c : Config} (h : MapWf c) : cellAt c c.aRasterHi = some .rasterHi := cellAt_cellAddr h .rasterHi
theorem cellAt_rasterLo {c : Config} (h : MapWf c) : cellAt c c.aRasterLo = some .rasterLo := cellAt_cellAddr h .rasterLo
theorem cellAt_eaPosX {c : Config} (h : MapWf c) (n : Slot) : cellAt c (eaPosX c n) = some (.spr (.x n)) := cellAt_cellAddr h (.spr (.x n))
theorem cellAt_eaPosY {c : Config} (h : MapWf c) (n : Slot) : cellAt c (eaPosY c n) = some (.spr (.y n)) := cellAt_cellAddr h (.spr (.y n))
theorem cellAt_eaPtr {c : Config} (h : MapWf c) (n : Slot) : cellAt c (eaPtr c n) = some (.spr (.ptr n)) := cellAt_cellAddr h (.spr (.ptr n))
theorem cellAt_eaColor {c : Config} (h : MapWf c) (n : Slot) : cellAt c (eaColor c n) = some (.spr (.color n)) := cellAt_cellAddr h (.spr (.color n))

end Sys2Proof.Machine
end

