-- ==== Sys2Proof/Laws/State.lean ====
section
/-! SUPPORT. What each named update of State does to each field, so that no later proof unfolds one. -/

namespace Sys2Proof.Machine


/-! ### accept -/

@[simp] theorem accept_cfg (w : CmdWord) (i : Instr) (rest : List CmdWord) (s : State) : (accept w i rest s).cfg = s.cfg := rfl
@[simp] theorem accept_op (w : CmdWord) (i : Instr) (rest : List CmdWord) (s : State) : (accept w i rest s).op = fieldOp w := rfl
@[simp] theorem accept_n (w : CmdWord) (i : Instr) (rest : List CmdWord) (s : State) : (accept w i rest s).n = fieldN w := rfl
@[simp] theorem accept_a (w : CmdWord) (i : Instr) (rest : List CmdWord) (s : State) : (accept w i rest s).a = fieldA w := rfl
@[simp] theorem accept_b (w : CmdWord) (i : Instr) (rest : List CmdWord) (s : State) : (accept w i rest s).b = fieldB w := rfl
@[simp] theorem accept_res (w : CmdWord) (i : Instr) (rest : List CmdWord) (s : State) : (accept w i rest s).res = s.res := rfl
@[simp] theorem accept_busy (w : CmdWord) (i : Instr) (rest : List CmdWord) (s : State) : (accept w i rest s).busy = true := rfl
@[simp] theorem accept_ph (w : CmdWord) (i : Instr) (rest : List CmdWord) (s : State) : (accept w i rest s).ph = startPhase (fieldOp w) := rfl
@[simp] theorem accept_v (w : CmdWord) (i : Instr) (rest : List CmdWord) (s : State) : (accept w i rest s).v = s.v := rfl
@[simp] theorem accept_hi (w : CmdWord) (i : Instr) (rest : List CmdWord) (s : State) : (accept w i rest s).hi = s.hi := rfl
@[simp] theorem accept_lo (w : CmdWord) (i : Instr) (rest : List CmdWord) (s : State) : (accept w i rest s).lo = s.lo := rfl
@[simp] theorem accept_l (w : CmdWord) (i : Instr) (rest : List CmdWord) (s : State) : (accept w i rest s).l = s.l := rfl
@[simp] theorem accept_sprX (w : CmdWord) (i : Instr) (rest : List CmdWord) (s : State) : (accept w i rest s).sprX = s.sprX := rfl
@[simp] theorem accept_sprY (w : CmdWord) (i : Instr) (rest : List CmdWord) (s : State) : (accept w i rest s).sprY = s.sprY := rfl
@[simp] theorem accept_sprColor (w : CmdWord) (i : Instr) (rest : List CmdWord) (s : State) : (accept w i rest s).sprColor = s.sprColor := rfl
@[simp] theorem accept_sprEnable (w : CmdWord) (i : Instr) (rest : List CmdWord) (s : State) : (accept w i rest s).sprEnable = s.sprEnable := rfl
@[simp] theorem accept_sprMcm (w : CmdWord) (i : Instr) (rest : List CmdWord) (s : State) : (accept w i rest s).sprMcm = s.sprMcm := rfl
@[simp] theorem accept_sprXmsb (w : CmdWord) (i : Instr) (rest : List CmdWord) (s : State) : (accept w i rest s).sprXmsb = s.sprXmsb := rfl
@[simp] theorem accept_sprMc0 (w : CmdWord) (i : Instr) (rest : List CmdWord) (s : State) : (accept w i rest s).sprMc0 = s.sprMc0 := rfl
@[simp] theorem accept_sprMc1 (w : CmdWord) (i : Instr) (rest : List CmdWord) (s : State) : (accept w i rest s).sprMc1 = s.sprMc1 := rfl
@[simp] theorem accept_mem (w : CmdWord) (i : Instr) (rest : List CmdWord) (s : State) : (accept w i rest s).mem = s.mem := rfl
@[simp] theorem accept_line (w : CmdWord) (i : Instr) (rest : List CmdWord) (s : State) : (accept w i rest s).line = s.line := rfl
@[simp] theorem accept_frame (w : CmdWord) (i : Instr) (rest : List CmdWord) (s : State) : (accept w i rest s).frame = s.frame := rfl
@[simp] theorem accept_host (w : CmdWord) (i : Instr) (rest : List CmdWord) (s : State) : (accept w i rest s).host = rest := rfl
@[simp] theorem accept_sched (w : CmdWord) (i : Instr) (rest : List CmdWord) (s : State) : (accept w i rest s).sched = s.sched := rfl
@[simp] theorem accept_draws (w : CmdWord) (i : Instr) (rest : List CmdWord) (s : State) : (accept w i rest s).draws = s.draws := rfl
@[simp] theorem accept_hist (w : CmdWord) (i : Instr) (rest : List CmdWord) (s : State) : (accept w i rest s).hist = .accepted i :: s.hist := rfl

/-! ### goto -/

@[simp] theorem goto_cfg (k : Nat) (s : State) : (goto k s).cfg = s.cfg := rfl
@[simp] theorem goto_op (k : Nat) (s : State) : (goto k s).op = s.op := rfl
@[simp] theorem goto_n (k : Nat) (s : State) : (goto k s).n = s.n := rfl
@[simp] theorem goto_a (k : Nat) (s : State) : (goto k s).a = s.a := rfl
@[simp] theorem goto_b (k : Nat) (s : State) : (goto k s).b = s.b := rfl
@[simp] theorem goto_res (k : Nat) (s : State) : (goto k s).res = s.res := rfl
@[simp] theorem goto_busy (k : Nat) (s : State) : (goto k s).busy = true := rfl
@[simp] theorem goto_ph (k : Nat) (s : State) : (goto k s).ph = .step k := rfl
@[simp] theorem goto_v (k : Nat) (s : State) : (goto k s).v = s.v := rfl
@[simp] theorem goto_hi (k : Nat) (s : State) : (goto k s).hi = s.hi := rfl
@[simp] theorem goto_lo (k : Nat) (s : State) : (goto k s).lo = s.lo := rfl
@[simp] theorem goto_l (k : Nat) (s : State) : (goto k s).l = s.l := rfl
@[simp] theorem goto_sprX (k : Nat) (s : State) : (goto k s).sprX = s.sprX := rfl
@[simp] theorem goto_sprY (k : Nat) (s : State) : (goto k s).sprY = s.sprY := rfl
@[simp] theorem goto_sprColor (k : Nat) (s : State) : (goto k s).sprColor = s.sprColor := rfl
@[simp] theorem goto_sprEnable (k : Nat) (s : State) : (goto k s).sprEnable = s.sprEnable := rfl
@[simp] theorem goto_sprMcm (k : Nat) (s : State) : (goto k s).sprMcm = s.sprMcm := rfl
@[simp] theorem goto_sprXmsb (k : Nat) (s : State) : (goto k s).sprXmsb = s.sprXmsb := rfl
@[simp] theorem goto_sprMc0 (k : Nat) (s : State) : (goto k s).sprMc0 = s.sprMc0 := rfl
@[simp] theorem goto_sprMc1 (k : Nat) (s : State) : (goto k s).sprMc1 = s.sprMc1 := rfl
@[simp] theorem goto_mem (k : Nat) (s : State) : (goto k s).mem = s.mem := rfl
@[simp] theorem goto_line (k : Nat) (s : State) : (goto k s).line = s.line := rfl
@[simp] theorem goto_frame (k : Nat) (s : State) : (goto k s).frame = s.frame := rfl
@[simp] theorem goto_host (k : Nat) (s : State) : (goto k s).host = s.host := rfl
@[simp] theorem goto_sched (k : Nat) (s : State) : (goto k s).sched = s.sched := rfl
@[simp] theorem goto_draws (k : Nat) (s : State) : (goto k s).draws = s.draws := rfl
@[simp] theorem goto_hist (k : Nat) (s : State) : (goto k s).hist = s.hist := rfl

/-! ### gotoWait -/

@[simp] theorem gotoWait_cfg (w : WaitPhase) (sub : Sub) (s : State) : (gotoWait w sub s).cfg = s.cfg := rfl
@[simp] theorem gotoWait_op (w : WaitPhase) (sub : Sub) (s : State) : (gotoWait w sub s).op = s.op := rfl
@[simp] theorem gotoWait_n (w : WaitPhase) (sub : Sub) (s : State) : (gotoWait w sub s).n = s.n := rfl
@[simp] theorem gotoWait_a (w : WaitPhase) (sub : Sub) (s : State) : (gotoWait w sub s).a = s.a := rfl
@[simp] theorem gotoWait_b (w : WaitPhase) (sub : Sub) (s : State) : (gotoWait w sub s).b = s.b := rfl
@[simp] theorem gotoWait_res (w : WaitPhase) (sub : Sub) (s : State) : (gotoWait w sub s).res = s.res := rfl
@[simp] theorem gotoWait_busy (w : WaitPhase) (sub : Sub) (s : State) : (gotoWait w sub s).busy = true := rfl
@[simp] theorem gotoWait_ph (w : WaitPhase) (sub : Sub) (s : State) : (gotoWait w sub s).ph = .wait w sub := rfl
@[simp] theorem gotoWait_v (w : WaitPhase) (sub : Sub) (s : State) : (gotoWait w sub s).v = s.v := rfl
@[simp] theorem gotoWait_hi (w : WaitPhase) (sub : Sub) (s : State) : (gotoWait w sub s).hi = s.hi := rfl
@[simp] theorem gotoWait_lo (w : WaitPhase) (sub : Sub) (s : State) : (gotoWait w sub s).lo = s.lo := rfl
@[simp] theorem gotoWait_l (w : WaitPhase) (sub : Sub) (s : State) : (gotoWait w sub s).l = s.l := rfl
@[simp] theorem gotoWait_sprX (w : WaitPhase) (sub : Sub) (s : State) : (gotoWait w sub s).sprX = s.sprX := rfl
@[simp] theorem gotoWait_sprY (w : WaitPhase) (sub : Sub) (s : State) : (gotoWait w sub s).sprY = s.sprY := rfl
@[simp] theorem gotoWait_sprColor (w : WaitPhase) (sub : Sub) (s : State) : (gotoWait w sub s).sprColor = s.sprColor := rfl
@[simp] theorem gotoWait_sprEnable (w : WaitPhase) (sub : Sub) (s : State) : (gotoWait w sub s).sprEnable = s.sprEnable := rfl
@[simp] theorem gotoWait_sprMcm (w : WaitPhase) (sub : Sub) (s : State) : (gotoWait w sub s).sprMcm = s.sprMcm := rfl
@[simp] theorem gotoWait_sprXmsb (w : WaitPhase) (sub : Sub) (s : State) : (gotoWait w sub s).sprXmsb = s.sprXmsb := rfl
@[simp] theorem gotoWait_sprMc0 (w : WaitPhase) (sub : Sub) (s : State) : (gotoWait w sub s).sprMc0 = s.sprMc0 := rfl
@[simp] theorem gotoWait_sprMc1 (w : WaitPhase) (sub : Sub) (s : State) : (gotoWait w sub s).sprMc1 = s.sprMc1 := rfl
@[simp] theorem gotoWait_mem (w : WaitPhase) (sub : Sub) (s : State) : (gotoWait w sub s).mem = s.mem := rfl
@[simp] theorem gotoWait_line (w : WaitPhase) (sub : Sub) (s : State) : (gotoWait w sub s).line = s.line := rfl
@[simp] theorem gotoWait_frame (w : WaitPhase) (sub : Sub) (s : State) : (gotoWait w sub s).frame = s.frame := rfl
@[simp] theorem gotoWait_host (w : WaitPhase) (sub : Sub) (s : State) : (gotoWait w sub s).host = s.host := rfl
@[simp] theorem gotoWait_sched (w : WaitPhase) (sub : Sub) (s : State) : (gotoWait w sub s).sched = s.sched := rfl
@[simp] theorem gotoWait_draws (w : WaitPhase) (sub : Sub) (s : State) : (gotoWait w sub s).draws = s.draws := rfl
@[simp] theorem gotoWait_hist (w : WaitPhase) (sub : Sub) (s : State) : (gotoWait w sub s).hist = s.hist := rfl

/-! ### complete -/

@[simp] theorem complete_cfg (i : Instr) (s : State) : (complete i s).cfg = s.cfg := rfl
@[simp] theorem complete_op (i : Instr) (s : State) : (complete i s).op = s.op := rfl
@[simp] theorem complete_n (i : Instr) (s : State) : (complete i s).n = s.n := rfl
@[simp] theorem complete_a (i : Instr) (s : State) : (complete i s).a = s.a := rfl
@[simp] theorem complete_b (i : Instr) (s : State) : (complete i s).b = s.b := rfl
@[simp] theorem complete_res (i : Instr) (s : State) : (complete i s).res = s.res := rfl
@[simp] theorem complete_busy (i : Instr) (s : State) : (complete i s).busy = false := rfl
@[simp] theorem complete_ph (i : Instr) (s : State) : (complete i s).ph = .idle := rfl
@[simp] theorem complete_v (i : Instr) (s : State) : (complete i s).v = s.v := rfl
@[simp] theorem complete_hi (i : Instr) (s : State) : (complete i s).hi = s.hi := rfl
@[simp] theorem complete_lo (i : Instr) (s : State) : (complete i s).lo = s.lo := rfl
@[simp] theorem complete_l (i : Instr) (s : State) : (complete i s).l = s.l := rfl
@[simp] theorem complete_sprX (i : Instr) (s : State) : (complete i s).sprX = s.sprX := rfl
@[simp] theorem complete_sprY (i : Instr) (s : State) : (complete i s).sprY = s.sprY := rfl
@[simp] theorem complete_sprColor (i : Instr) (s : State) : (complete i s).sprColor = s.sprColor := rfl
@[simp] theorem complete_sprEnable (i : Instr) (s : State) : (complete i s).sprEnable = s.sprEnable := rfl
@[simp] theorem complete_sprMcm (i : Instr) (s : State) : (complete i s).sprMcm = s.sprMcm := rfl
@[simp] theorem complete_sprXmsb (i : Instr) (s : State) : (complete i s).sprXmsb = s.sprXmsb := rfl
@[simp] theorem complete_sprMc0 (i : Instr) (s : State) : (complete i s).sprMc0 = s.sprMc0 := rfl
@[simp] theorem complete_sprMc1 (i : Instr) (s : State) : (complete i s).sprMc1 = s.sprMc1 := rfl
@[simp] theorem complete_mem (i : Instr) (s : State) : (complete i s).mem = s.mem := rfl
@[simp] theorem complete_line (i : Instr) (s : State) : (complete i s).line = s.line := rfl
@[simp] theorem complete_frame (i : Instr) (s : State) : (complete i s).frame = s.frame := rfl
@[simp] theorem complete_host (i : Instr) (s : State) : (complete i s).host = s.host := rfl
@[simp] theorem complete_sched (i : Instr) (s : State) : (complete i s).sched = s.sched := rfl
@[simp] theorem complete_draws (i : Instr) (s : State) : (complete i s).draws = s.draws := rfl
@[simp] theorem complete_hist (i : Instr) (s : State) : (complete i s).hist = .completed i :: s.hist := rfl

/-! ### record -/

@[simp] theorem record_cfg (rw : RW) (addr : Addr) (d : Byte) (s : State) : (record rw addr d s).cfg = s.cfg := rfl
@[simp] theorem record_op (rw : RW) (addr : Addr) (d : Byte) (s : State) : (record rw addr d s).op = s.op := rfl
@[simp] theorem record_n (rw : RW) (addr : Addr) (d : Byte) (s : State) : (record rw addr d s).n = s.n := rfl
@[simp] theorem record_a (rw : RW) (addr : Addr) (d : Byte) (s : State) : (record rw addr d s).a = s.a := rfl
@[simp] theorem record_b (rw : RW) (addr : Addr) (d : Byte) (s : State) : (record rw addr d s).b = s.b := rfl
@[simp] theorem record_res (rw : RW) (addr : Addr) (d : Byte) (s : State) : (record rw addr d s).res = s.res := rfl
@[simp] theorem record_busy (rw : RW) (addr : Addr) (d : Byte) (s : State) : (record rw addr d s).busy = s.busy := rfl
@[simp] theorem record_ph (rw : RW) (addr : Addr) (d : Byte) (s : State) : (record rw addr d s).ph = s.ph := rfl
@[simp] theorem record_v (rw : RW) (addr : Addr) (d : Byte) (s : State) : (record rw addr d s).v = s.v := rfl
@[simp] theorem record_hi (rw : RW) (addr : Addr) (d : Byte) (s : State) : (record rw addr d s).hi = s.hi := rfl
@[simp] theorem record_lo (rw : RW) (addr : Addr) (d : Byte) (s : State) : (record rw addr d s).lo = s.lo := rfl
@[simp] theorem record_l (rw : RW) (addr : Addr) (d : Byte) (s : State) : (record rw addr d s).l = s.l := rfl
@[simp] theorem record_sprX (rw : RW) (addr : Addr) (d : Byte) (s : State) : (record rw addr d s).sprX = s.sprX := rfl
@[simp] theorem record_sprY (rw : RW) (addr : Addr) (d : Byte) (s : State) : (record rw addr d s).sprY = s.sprY := rfl
@[simp] theorem record_sprColor (rw : RW) (addr : Addr) (d : Byte) (s : State) : (record rw addr d s).sprColor = s.sprColor := rfl
@[simp] theorem record_sprEnable (rw : RW) (addr : Addr) (d : Byte) (s : State) : (record rw addr d s).sprEnable = s.sprEnable := rfl
@[simp] theorem record_sprMcm (rw : RW) (addr : Addr) (d : Byte) (s : State) : (record rw addr d s).sprMcm = s.sprMcm := rfl
@[simp] theorem record_sprXmsb (rw : RW) (addr : Addr) (d : Byte) (s : State) : (record rw addr d s).sprXmsb = s.sprXmsb := rfl
@[simp] theorem record_sprMc0 (rw : RW) (addr : Addr) (d : Byte) (s : State) : (record rw addr d s).sprMc0 = s.sprMc0 := rfl
@[simp] theorem record_sprMc1 (rw : RW) (addr : Addr) (d : Byte) (s : State) : (record rw addr d s).sprMc1 = s.sprMc1 := rfl
@[simp] theorem record_mem (rw : RW) (addr : Addr) (d : Byte) (s : State) : (record rw addr d s).mem = s.mem := rfl
@[simp] theorem record_line (rw : RW) (addr : Addr) (d : Byte) (s : State) : (record rw addr d s).line = s.line := rfl
@[simp] theorem record_frame (rw : RW) (addr : Addr) (d : Byte) (s : State) : (record rw addr d s).frame = s.frame := rfl
@[simp] theorem record_host (rw : RW) (addr : Addr) (d : Byte) (s : State) : (record rw addr d s).host = s.host := rfl
@[simp] theorem record_sched (rw : RW) (addr : Addr) (d : Byte) (s : State) : (record rw addr d s).sched = s.sched := rfl
@[simp] theorem record_draws (rw : RW) (addr : Addr) (d : Byte) (s : State) : (record rw addr d s).draws = s.draws := rfl
@[simp] theorem record_hist (rw : RW) (addr : Addr) (d : Byte) (s : State) : (record rw addr d s).hist = .bus rw addr d s.line s.frame :: s.hist := rfl

/-! ### combineSample -/

@[simp] theorem combineSample_cfg (s : State) : (combineSample s).cfg = s.cfg := rfl
@[simp] theorem combineSample_op (s : State) : (combineSample s).op = s.op := rfl
@[simp] theorem combineSample_n (s : State) : (combineSample s).n = s.n := rfl
@[simp] theorem combineSample_a (s : State) : (combineSample s).a = s.a := rfl
@[simp] theorem combineSample_b (s : State) : (combineSample s).b = s.b := rfl
@[simp] theorem combineSample_res (s : State) : (combineSample s).res = s.res := rfl
@[simp] theorem combineSample_busy (s : State) : (combineSample s).busy = s.busy := rfl
@[simp] theorem combineSample_ph (s : State) : (combineSample s).ph = s.ph := rfl
@[simp] theorem combineSample_v (s : State) : (combineSample s).v = s.v := rfl
@[simp] theorem combineSample_hi (s : State) : (combineSample s).hi = s.hi := rfl
@[simp] theorem combineSample_lo (s : State) : (combineSample s).lo = s.lo := rfl
@[simp] theorem combineSample_l (s : State) : (combineSample s).l = combineLine s.cfg.combine s.hi s.lo := rfl
@[simp] theorem combineSample_sprX (s : State) : (combineSample s).sprX = s.sprX := rfl
@[simp] theorem combineSample_sprY (s : State) : (combineSample s).sprY = s.sprY := rfl
@[simp] theorem combineSample_sprColor (s : State) : (combineSample s).sprColor = s.sprColor := rfl
@[simp] theorem combineSample_sprEnable (s : State) : (combineSample s).sprEnable = s.sprEnable := rfl
@[simp] theorem combineSample_sprMcm (s : State) : (combineSample s).sprMcm = s.sprMcm := rfl
@[simp] theorem combineSample_sprXmsb (s : State) : (combineSample s).sprXmsb = s.sprXmsb := rfl
@[simp] theorem combineSample_sprMc0 (s : State) : (combineSample s).sprMc0 = s.sprMc0 := rfl
@[simp] theorem combineSample_sprMc1 (s : State) : (combineSample s).sprMc1 = s.sprMc1 := rfl
@[simp] theorem combineSample_mem (s : State) : (combineSample s).mem = s.mem := rfl
@[simp] theorem combineSample_line (s : State) : (combineSample s).line = s.line := rfl
@[simp] theorem combineSample_frame (s : State) : (combineSample s).frame = s.frame := rfl
@[simp] theorem combineSample_host (s : State) : (combineSample s).host = s.host := rfl
@[simp] theorem combineSample_sched (s : State) : (combineSample s).sched = s.sched := rfl
@[simp] theorem combineSample_draws (s : State) : (combineSample s).draws = s.draws := rfl
@[simp] theorem combineSample_hist (s : State) : (combineSample s).hist = s.hist := rfl

/-! ### tickLine -/

@[simp] theorem tickLine_cfg (k : Nat) (s : State) : (tickLine k s).cfg = s.cfg := rfl
@[simp] theorem tickLine_op (k : Nat) (s : State) : (tickLine k s).op = s.op := rfl
@[simp] theorem tickLine_n (k : Nat) (s : State) : (tickLine k s).n = s.n := rfl
@[simp] theorem tickLine_a (k : Nat) (s : State) : (tickLine k s).a = s.a := rfl
@[simp] theorem tickLine_b (k : Nat) (s : State) : (tickLine k s).b = s.b := rfl
@[simp] theorem tickLine_res (k : Nat) (s : State) : (tickLine k s).res = s.res := rfl
@[simp] theorem tickLine_busy (k : Nat) (s : State) : (tickLine k s).busy = s.busy := rfl
@[simp] theorem tickLine_ph (k : Nat) (s : State) : (tickLine k s).ph = s.ph := rfl
@[simp] theorem tickLine_v (k : Nat) (s : State) : (tickLine k s).v = s.v := rfl
@[simp] theorem tickLine_hi (k : Nat) (s : State) : (tickLine k s).hi = s.hi := rfl
@[simp] theorem tickLine_lo (k : Nat) (s : State) : (tickLine k s).lo = s.lo := rfl
@[simp] theorem tickLine_l (k : Nat) (s : State) : (tickLine k s).l = s.l := rfl
@[simp] theorem tickLine_sprX (k : Nat) (s : State) : (tickLine k s).sprX = s.sprX := rfl
@[simp] theorem tickLine_sprY (k : Nat) (s : State) : (tickLine k s).sprY = s.sprY := rfl
@[simp] theorem tickLine_sprColor (k : Nat) (s : State) : (tickLine k s).sprColor = s.sprColor := rfl
@[simp] theorem tickLine_sprEnable (k : Nat) (s : State) : (tickLine k s).sprEnable = s.sprEnable := rfl
@[simp] theorem tickLine_sprMcm (k : Nat) (s : State) : (tickLine k s).sprMcm = s.sprMcm := rfl
@[simp] theorem tickLine_sprXmsb (k : Nat) (s : State) : (tickLine k s).sprXmsb = s.sprXmsb := rfl
@[simp] theorem tickLine_sprMc0 (k : Nat) (s : State) : (tickLine k s).sprMc0 = s.sprMc0 := rfl
@[simp] theorem tickLine_sprMc1 (k : Nat) (s : State) : (tickLine k s).sprMc1 = s.sprMc1 := rfl
@[simp] theorem tickLine_mem (k : Nat) (s : State) : (tickLine k s).mem = s.mem := rfl
@[simp] theorem tickLine_line (k : Nat) (s : State) : (tickLine k s).line = lineAfter s.cfg.lines s.line k := rfl
@[simp] theorem tickLine_frame (k : Nat) (s : State) :
    (tickLine k s).frame = s.frame + framesAfter s.cfg.lines s.line k := rfl
@[simp] theorem tickLine_host (k : Nat) (s : State) : (tickLine k s).host = s.host := rfl
@[simp] theorem tickLine_sched (k : Nat) (s : State) : (tickLine k s).sched = s.sched := rfl
@[simp] theorem tickLine_draws (k : Nat) (s : State) : (tickLine k s).draws = s.draws := rfl
@[simp] theorem tickLine_hist (k : Nat) (s : State) : (tickLine k s).hist = s.hist := rfl

/-! ### setCell: a storage cell's write leaves everything but the cells alone -/

@[simp] theorem setCell_cfg (s : State) (k : SprCell) (d : Byte) : (setCell s k d).cfg = s.cfg := by cases k <;> rfl
@[simp] theorem setCell_op (s : State) (k : SprCell) (d : Byte) : (setCell s k d).op = s.op := by cases k <;> rfl
@[simp] theorem setCell_n (s : State) (k : SprCell) (d : Byte) : (setCell s k d).n = s.n := by cases k <;> rfl
@[simp] theorem setCell_a (s : State) (k : SprCell) (d : Byte) : (setCell s k d).a = s.a := by cases k <;> rfl
@[simp] theorem setCell_b (s : State) (k : SprCell) (d : Byte) : (setCell s k d).b = s.b := by cases k <;> rfl
@[simp] theorem setCell_res (s : State) (k : SprCell) (d : Byte) : (setCell s k d).res = s.res := by cases k <;> rfl
@[simp] theorem setCell_busy (s : State) (k : SprCell) (d : Byte) : (setCell s k d).busy = s.busy := by cases k <;> rfl
@[simp] theorem setCell_ph (s : State) (k : SprCell) (d : Byte) : (setCell s k d).ph = s.ph := by cases k <;> rfl
@[simp] theorem setCell_v (s : State) (k : SprCell) (d : Byte) : (setCell s k d).v = s.v := by cases k <;> rfl
@[simp] theorem setCell_hi (s : State) (k : SprCell) (d : Byte) : (setCell s k d).hi = s.hi := by cases k <;> rfl
@[simp] theorem setCell_lo (s : State) (k : SprCell) (d : Byte) : (setCell s k d).lo = s.lo := by cases k <;> rfl
@[simp] theorem setCell_l (s : State) (k : SprCell) (d : Byte) : (setCell s k d).l = s.l := by cases k <;> rfl
@[simp] theorem setCell_line (s : State) (k : SprCell) (d : Byte) : (setCell s k d).line = s.line := by cases k <;> rfl
@[simp] theorem setCell_frame (s : State) (k : SprCell) (d : Byte) : (setCell s k d).frame = s.frame := by cases k <;> rfl
@[simp] theorem setCell_host (s : State) (k : SprCell) (d : Byte) : (setCell s k d).host = s.host := by cases k <;> rfl
@[simp] theorem setCell_sched (s : State) (k : SprCell) (d : Byte) : (setCell s k d).sched = s.sched := by cases k <;> rfl
@[simp] theorem setCell_draws (s : State) (k : SprCell) (d : Byte) : (setCell s k d).draws = s.draws := by cases k <;> rfl
@[simp] theorem setCell_hist (s : State) (k : SprCell) (d : Byte) : (setCell s k d).hist = s.hist := by cases k <;> rfl

/-! ### rasterTicks: only the line, the frame, the schedule and the draw counter move -/

@[simp] theorem rasterTicks_cfg (s : State) : (rasterTicks s).cfg = s.cfg := by unfold rasterTicks; split <;> rfl
@[simp] theorem rasterTicks_op (s : State) : (rasterTicks s).op = s.op := by unfold rasterTicks; split <;> rfl
@[simp] theorem rasterTicks_n (s : State) : (rasterTicks s).n = s.n := by unfold rasterTicks; split <;> rfl
@[simp] theorem rasterTicks_a (s : State) : (rasterTicks s).a = s.a := by unfold rasterTicks; split <;> rfl
@[simp] theorem rasterTicks_b (s : State) : (rasterTicks s).b = s.b := by unfold rasterTicks; split <;> rfl
@[simp] theorem rasterTicks_res (s : State) : (rasterTicks s).res = s.res := by unfold rasterTicks; split <;> rfl
@[simp] theorem rasterTicks_busy (s : State) : (rasterTicks s).busy = s.busy := by unfold rasterTicks; split <;> rfl
@[simp] theorem rasterTicks_ph (s : State) : (rasterTicks s).ph = s.ph := by unfold rasterTicks; split <;> rfl
@[simp] theorem rasterTicks_v (s : State) : (rasterTicks s).v = s.v := by unfold rasterTicks; split <;> rfl
@[simp] theorem rasterTicks_hi (s : State) : (rasterTicks s).hi = s.hi := by unfold rasterTicks; split <;> rfl
@[simp] theorem rasterTicks_lo (s : State) : (rasterTicks s).lo = s.lo := by unfold rasterTicks; split <;> rfl
@[simp] theorem rasterTicks_l (s : State) : (rasterTicks s).l = s.l := by unfold rasterTicks; split <;> rfl
@[simp] theorem rasterTicks_sprX (s : State) : (rasterTicks s).sprX = s.sprX := by unfold rasterTicks; split <;> rfl
@[simp] theorem rasterTicks_sprY (s : State) : (rasterTicks s).sprY = s.sprY := by unfold rasterTicks; split <;> rfl
@[simp] theorem rasterTicks_sprColor (s : State) : (rasterTicks s).sprColor = s.sprColor := by unfold rasterTicks; split <;> rfl
@[simp] theorem rasterTicks_sprEnable (s : State) : (rasterTicks s).sprEnable = s.sprEnable := by unfold rasterTicks; split <;> rfl
@[simp] theorem rasterTicks_sprMcm (s : State) : (rasterTicks s).sprMcm = s.sprMcm := by unfold rasterTicks; split <;> rfl
@[simp] theorem rasterTicks_sprXmsb (s : State) : (rasterTicks s).sprXmsb = s.sprXmsb := by unfold rasterTicks; split <;> rfl
@[simp] theorem rasterTicks_sprMc0 (s : State) : (rasterTicks s).sprMc0 = s.sprMc0 := by unfold rasterTicks; split <;> rfl
@[simp] theorem rasterTicks_sprMc1 (s : State) : (rasterTicks s).sprMc1 = s.sprMc1 := by unfold rasterTicks; split <;> rfl
@[simp] theorem rasterTicks_mem (s : State) : (rasterTicks s).mem = s.mem := by unfold rasterTicks; split <;> rfl
@[simp] theorem rasterTicks_host (s : State) : (rasterTicks s).host = s.host := by unfold rasterTicks; split <;> rfl
@[simp] theorem rasterTicks_hist (s : State) : (rasterTicks s).hist = s.hist := by unfold rasterTicks; split <;> rfl

/-! ### waitDecide: only `BUSY`, `PH` and the history move -/

@[simp] theorem waitDecide_cfg (w : WaitPhase) (s : State) : (waitDecide w s).cfg = s.cfg := by
  cases w <;> simp only [waitDecide] <;> split <;> rfl
@[simp] theorem waitDecide_op (w : WaitPhase) (s : State) : (waitDecide w s).op = s.op := by
  cases w <;> simp only [waitDecide] <;> split <;> rfl
@[simp] theorem waitDecide_n (w : WaitPhase) (s : State) : (waitDecide w s).n = s.n := by
  cases w <;> simp only [waitDecide] <;> split <;> rfl
@[simp] theorem waitDecide_a (w : WaitPhase) (s : State) : (waitDecide w s).a = s.a := by
  cases w <;> simp only [waitDecide] <;> split <;> rfl
@[simp] theorem waitDecide_b (w : WaitPhase) (s : State) : (waitDecide w s).b = s.b := by
  cases w <;> simp only [waitDecide] <;> split <;> rfl
@[simp] theorem waitDecide_res (w : WaitPhase) (s : State) : (waitDecide w s).res = s.res := by
  cases w <;> simp only [waitDecide] <;> split <;> rfl
@[simp] theorem waitDecide_v (w : WaitPhase) (s : State) : (waitDecide w s).v = s.v := by
  cases w <;> simp only [waitDecide] <;> split <;> rfl
@[simp] theorem waitDecide_hi (w : WaitPhase) (s : State) : (waitDecide w s).hi = s.hi := by
  cases w <;> simp only [waitDecide] <;> split <;> rfl
@[simp] theorem waitDecide_lo (w : WaitPhase) (s : State) : (waitDecide w s).lo = s.lo := by
  cases w <;> simp only [waitDecide] <;> split <;> rfl
@[simp] theorem waitDecide_l (w : WaitPhase) (s : State) : (waitDecide w s).l = s.l := by
  cases w <;> simp only [waitDecide] <;> split <;> rfl
@[simp] theorem waitDecide_sprX (w : WaitPhase) (s : State) : (waitDecide w s).sprX = s.sprX := by
  cases w <;> simp only [waitDecide] <;> split <;> rfl
@[simp] theorem waitDecide_sprY (w : WaitPhase) (s : State) : (waitDecide w s).sprY = s.sprY := by
  cases w <;> simp only [waitDecide] <;> split <;> rfl
@[simp] theorem waitDecide_sprColor (w : WaitPhase) (s : State) : (waitDecide w s).sprColor = s.sprColor := by
  cases w <;> simp only [waitDecide] <;> split <;> rfl
@[simp] theorem waitDecide_sprEnable (w : WaitPhase) (s : State) : (waitDecide w s).sprEnable = s.sprEnable := by
  cases w <;> simp only [waitDecide] <;> split <;> rfl
@[simp] theorem waitDecide_sprMcm (w : WaitPhase) (s : State) : (waitDecide w s).sprMcm = s.sprMcm := by
  cases w <;> simp only [waitDecide] <;> split <;> rfl
@[simp] theorem waitDecide_sprXmsb (w : WaitPhase) (s : State) : (waitDecide w s).sprXmsb = s.sprXmsb := by
  cases w <;> simp only [waitDecide] <;> split <;> rfl
@[simp] theorem waitDecide_sprMc0 (w : WaitPhase) (s : State) : (waitDecide w s).sprMc0 = s.sprMc0 := by
  cases w <;> simp only [waitDecide] <;> split <;> rfl
@[simp] theorem waitDecide_sprMc1 (w : WaitPhase) (s : State) : (waitDecide w s).sprMc1 = s.sprMc1 := by
  cases w <;> simp only [waitDecide] <;> split <;> rfl
@[simp] theorem waitDecide_mem (w : WaitPhase) (s : State) : (waitDecide w s).mem = s.mem := by
  cases w <;> simp only [waitDecide] <;> split <;> rfl
@[simp] theorem waitDecide_line (w : WaitPhase) (s : State) : (waitDecide w s).line = s.line := by
  cases w <;> simp only [waitDecide] <;> split <;> rfl
@[simp] theorem waitDecide_frame (w : WaitPhase) (s : State) : (waitDecide w s).frame = s.frame := by
  cases w <;> simp only [waitDecide] <;> split <;> rfl
@[simp] theorem waitDecide_host (w : WaitPhase) (s : State) : (waitDecide w s).host = s.host := by
  cases w <;> simp only [waitDecide] <;> split <;> rfl
@[simp] theorem waitDecide_sched (w : WaitPhase) (s : State) : (waitDecide w s).sched = s.sched := by
  cases w <;> simp only [waitDecide] <;> split <;> rfl
@[simp] theorem waitDecide_draws (w : WaitPhase) (s : State) : (waitDecide w s).draws = s.draws := by
  cases w <;> simp only [waitDecide] <;> split <;> rfl

end Sys2Proof.Machine
end

