-- ==== Sys2Proof/Laws/Bus.lean ====
section
/-! SUPPORT. What the shared operations can do: a bus read, a bus write, an index check, a read-modify-write,
the two reads of a sample. -/

namespace Sys2Proof.Machine

/-- The state after a bus read of the cell `k`: the history and the draw counter move, nothing else. -/
def afterRead (addr : Addr) (k : Cell) (s : State) : State :=
  record .read addr (readCell s k) { s with draws := s.draws + drawsOfRead k }

/-- The state after a bus write of the storage cell `k`. -/
def afterWrite (addr : Addr) (k : SprCell) (d : Byte) (s : State) : State := record .write addr d (setCell s k d)

theorem withRead_of_cellAt {addr : Addr} {s : State} {k : Cell} (h : cellAt s.cfg addr = some k)
    (next : Byte → State → State) : withRead addr s next = .next (next (readCell s k) (afterRead addr k s)) := by
  simp only [withRead, memRead, h]
  rfl

theorem withRead_of_unmapped {addr : Addr} {s : State} (h : cellAt s.cfg addr = none) (next : Byte → State → State) :
    withRead addr s next = .refused (.outsideBlockMap addr) := by
  simp only [withRead, memRead, h]

/-- All a bus read can do when it answers a next state. -/
theorem withRead_eq_next {addr : Addr} {s t : State} {next : Byte → State → State}
    (h : withRead addr s next = .next t) :
    ∃ k, cellAt s.cfg addr = some k ∧ t = next (readCell s k) (afterRead addr k s) := by
  cases hk : cellAt s.cfg addr with
  | none => rw [withRead_of_unmapped hk] at h; cases h
  | some k => rw [withRead_of_cellAt hk] at h; cases h; exact ⟨k, rfl, rfl⟩

theorem withWrite_of_cellAt {addr : Addr} {s : State} {k : SprCell} (h : cellAt s.cfg addr = some (.spr k)) (d : Byte)
    (next : State → State) : withWrite addr d s next = .next (next (afterWrite addr k d s)) := by
  simp only [withWrite, memWrite, h]
  rfl

theorem withWrite_of_unmapped {addr : Addr} {s : State} (h : cellAt s.cfg addr = none) (d : Byte)
    (next : State → State) : withWrite addr d s next = .refused (.outsideBlockMap addr) := by
  simp only [withWrite, memWrite, h]

theorem withWrite_of_raster {addr : Addr} {s : State}
    (h : cellAt s.cfg addr = some .rasterHi ∨ cellAt s.cfg addr = some .rasterLo) (d : Byte)
    (next : State → State) : withWrite addr d s next = .refused (.rasterWrite addr) := by
  rcases h with h | h <;> simp only [withWrite, memWrite, h]

/-- All a bus write can do when it answers a next state. -/
theorem withWrite_eq_next {addr : Addr} {d : Byte} {s t : State} {next : State → State}
    (h : withWrite addr d s next = .next t) :
    ∃ k, cellAt s.cfg addr = some (.spr k) ∧ t = next (afterWrite addr k d s) := by
  match hk : cellAt s.cfg addr with
  | none => rw [withWrite_of_unmapped hk] at h; cases h
  | some .rasterHi => rw [withWrite_of_raster (.inl hk)] at h; cases h
  | some .rasterLo => rw [withWrite_of_raster (.inr hk)] at h; cases h
  | some (.spr k) => rw [withWrite_of_cellAt hk] at h; cases h; exact ⟨k, rfl, rfl⟩

theorem withIndex_of_lt {index : Nat} (h : index < 8) (body : Slot → Host.Outcome State Fault Refusal) :
    withIndex index body = body (BitVec.ofNat 3 index) := if_pos h

theorem withIndex_of_ge {index : Nat} (h : 8 ≤ index) (body : Slot → Host.Outcome State Fault Refusal) :
    withIndex index body = .refused (.indexAbove7 index) := if_neg (by omega)

/-- All an index check can do when a next state is answered. -/
theorem withIndex_eq_next {index : Nat} {body : Slot → Host.Outcome State Fault Refusal} {t : State}
    (h : withIndex index body = .next t) : index < 8 ∧ body (BitVec.ofNat 3 index) = .next t := by
  by_cases hi : index < 8
  · exact ⟨hi, by rwa [withIndex_of_lt hi] at h⟩
  · rw [withIndex_of_ge (by omega)] at h; cases h

theorem readModifyWrite_write {i : Instr} {addr : Addr} {modify : Byte → Byte} {s : State} (h : s.ph = .step 1) :
    readModifyWrite i addr modify s = withWrite addr (modify s.v) s (complete i) := by
  simp only [readModifyWrite, h]

theorem readModifyWrite_read {i : Instr} {addr : Addr} {modify : Byte → Byte} {s : State} (h : s.ph ≠ .step 1) :
    readModifyWrite i addr modify s = withRead addr s fun d t => goto 1 { t with v := d } := by
  unfold readModifyWrite
  split
  · next e => exact absurd e h
  · rfl

/-- All a read-modify-write can do when it answers a next state: its read, or its write. -/
theorem readModifyWrite_eq_next {i : Instr} {addr : Addr} {modify : Byte → Byte} {s t : State}
    (h : readModifyWrite i addr modify s = .next t) :
    (s.ph ≠ .step 1 ∧ ∃ k, cellAt s.cfg addr = some k ∧ t = goto 1 { afterRead addr k s with v := readCell s k }) ∨
      (s.ph = .step 1 ∧ ∃ k, cellAt s.cfg addr = some (.spr k) ∧
        t = complete i (afterWrite addr k (modify s.v) s)) := by
  by_cases hp : s.ph = .step 1
  · rw [readModifyWrite_write hp] at h
    exact .inr ⟨hp, withWrite_eq_next h⟩
  · rw [readModifyWrite_read hp] at h
    exact .inl ⟨hp, withRead_eq_next h⟩

/-- The state after the first read of a sample. -/
def afterFirst (s : State) : State :=
  match s.cfg.readOrder with
  | .hiFirst => { afterRead s.cfg.aRasterHi .rasterHi s with hi := readCell s .rasterHi }
  | .loFirst => { afterRead s.cfg.aRasterLo .rasterLo s with lo := readCell s .rasterLo }

/-- The state after the second read of a sample and the combination. -/
def afterSecond (s : State) : State :=
  match s.cfg.readOrder with
  | .hiFirst => combineSample { afterRead s.cfg.aRasterLo .rasterLo s with lo := readCell s .rasterLo }
  | .loFirst => combineSample { afterRead s.cfg.aRasterHi .rasterHi s with hi := readCell s .rasterHi }

/-- The first read of a sample always succeeds. -/
theorem sampleFirst_spec {s : State} (h : MapWf s.cfg) (next : State → State) :
    sampleFirst s next = .next (next (afterFirst s)) := by
  unfold sampleFirst afterFirst readHi readLo
  cases s.cfg.readOrder
  · exact withRead_of_cellAt (cellAt_rasterHi h) _
  · exact withRead_of_cellAt (cellAt_rasterLo h) _

/-- The second read of a sample always succeeds. -/
theorem sampleSecond_spec {s : State} (h : MapWf s.cfg) (next : State → State) :
    sampleSecond s next = .next (next (afterSecond s)) := by
  unfold sampleSecond afterSecond readHi readLo
  cases s.cfg.readOrder
  · exact withRead_of_cellAt (cellAt_rasterLo h) _
  · exact withRead_of_cellAt (cellAt_rasterHi h) _

end Sys2Proof.Machine
end

