-- ==== Sys2Proof/Laws/Memory.lean ====
section
/-! SUPPORT. Memory: a read after a write, and the canonical form that every operation keeps. -/

namespace Sys2Proof.Machine

@[simp] theorem Memory.read_nil (addr : Nat) : Memory.read [] addr = Memory.unlisted := rfl

theorem Memory.read_cons (c : Host.Cell) (rest : List Host.Cell) (addr : Nat) :
    Memory.read (c :: rest) addr = if c.1 = addr then c.2 else Memory.read rest addr := rfl

/-- A byte below every listed address is unlisted. -/
theorem Memory.read_of_lt {m : List Host.Cell} {addr : Nat} (h : ∀ c ∈ m, addr < c.1) :
    Memory.read m addr = Memory.unlisted := by
  induction m with
  | nil => rfl
  | cons c rest ih =>
    have hc := h c (by simp)
    rw [Memory.read_cons, if_neg (by omega)]
    exact ih fun d hd => h d (by simp [hd])

theorem Memory.read_consByte_same {rest : List Host.Cell} {addr : Nat} (v : Byte) (h : ∀ c ∈ rest, addr < c.1) :
    Memory.read (Memory.consByte addr v rest) addr = v := by
  unfold Memory.consByte
  split
  · next hv => rw [Memory.read_of_lt h, hv]
  · simp [Memory.read_cons]

theorem Memory.read_consByte_other {rest : List Host.Cell} {addr other : Nat} (v : Byte) (h : other ≠ addr) :
    Memory.read (Memory.consByte addr v rest) other = Memory.read rest other := by
  unfold Memory.consByte
  split
  · rfl
  · rw [Memory.read_cons, if_neg (by simpa using h.symm)]

/-- A read after a write to the same place gives the value written. -/
theorem Memory.read_write_same {m : List Host.Cell} (hm : m.Pairwise (fun c d => c.1 < d.1)) (addr : Nat) (v : Byte) :
    Memory.read (Memory.write m addr v) addr = v := by
  induction m with
  | nil => exact Memory.read_consByte_same v (by simp)
  | cons c rest ih =>
    obtain ⟨hc, hr⟩ := List.pairwise_cons.1 hm
    simp only [Memory.write]
    split
    · next hlt => exact Memory.read_consByte_same v (by
        intro d hd
        rcases List.mem_cons.1 hd with rfl | hd
        · exact hlt
        · exact hlt.trans (hc d hd))
    · split
      · next heq => exact Memory.read_consByte_same v (by rw [heq]; exact hc)
      · next hne => rw [Memory.read_cons, if_neg (fun e => hne e.symm)]; exact ih hr

/-- A write leaves every other place alone. -/
theorem Memory.read_write_other (m : List Host.Cell) {addr other : Nat} (v : Byte) (h : other ≠ addr) :
    Memory.read (Memory.write m addr v) other = Memory.read m other := by
  induction m with
  | nil => exact Memory.read_consByte_other v h
  | cons c rest ih =>
    simp only [Memory.write]
    split
    · exact Memory.read_consByte_other v h
    · split
      · next heq => rw [Memory.read_consByte_other v h, Memory.read_cons, if_neg (fun e => h (by omega))]
      · rw [Memory.read_cons, Memory.read_cons, ih]

/-- What a listed byte of a written memory is: the written one, or one listed before. -/
theorem Memory.mem_write {m : List Host.Cell} {addr : Nat} {v : Byte} {c : Host.Cell}
    (h : c ∈ Memory.write m addr v) : (c = (addr, v) ∧ v ≠ Memory.unlisted) ∨ c ∈ m := by
  have key : ∀ rest : List Host.Cell, c ∈ Memory.consByte addr v rest →
      (c = (addr, v) ∧ v ≠ Memory.unlisted) ∨ c ∈ rest := by
    intro rest hr
    unfold Memory.consByte at hr
    split at hr
    · exact .inr hr
    · next hv => exact (List.mem_cons.1 hr).imp (fun e => ⟨e, hv⟩) id
  induction m with
  | nil => exact key [] h
  | cons d rest ih =>
    simp only [Memory.write] at h
    split at h
    · exact key _ h
    · split at h
      · exact (key _ h).imp id (List.mem_cons_of_mem _)
      · rcases List.mem_cons.1 h with rfl | h
        · exact .inr (by simp)
        · exact (ih h).imp id (List.mem_cons_of_mem _)

/-- A write keeps the addresses strictly rising. -/
theorem Memory.write_pairwise {m : List Host.Cell} (hm : m.Pairwise (fun c d => c.1 < d.1)) (addr : Nat) (v : Byte) :
    (Memory.write m addr v).Pairwise (fun c d => c.1 < d.1) := by
  have key : ∀ rest : List Host.Cell, rest.Pairwise (fun c d => c.1 < d.1) → (∀ c ∈ rest, addr < c.1) →
      (Memory.consByte addr v rest).Pairwise (fun c d => c.1 < d.1) := by
    intro rest hr hlt
    unfold Memory.consByte
    split
    · exact hr
    · exact List.pairwise_cons.2 ⟨hlt, hr⟩
  induction m with
  | nil => exact key [] .nil (by simp)
  | cons c rest ih =>
    obtain ⟨hc, hr⟩ := List.pairwise_cons.1 hm
    simp only [Memory.write]
    split
    · next hlt => exact key _ hm (by
        intro d hd
        rcases List.mem_cons.1 hd with rfl | hd
        · exact hlt
        · exact hlt.trans (hc d hd))
    · split
      · next heq => exact key _ hr (by rw [heq]; exact hc)
      · next hnlt hne =>
        refine List.pairwise_cons.2 ⟨fun d hd => ?_, ih hr⟩
        rcases Memory.mem_write hd with ⟨rfl, -⟩ | hd
        · show c.1 < addr
          omega
        · exact hc d hd

/-- Every memory operation keeps the canonical form. -/
theorem Memory.write_wf {m : List Host.Cell} (hm : Memory.Wf m) {addr : Nat} (ha : addr < 65536) (v : Byte) :
    Memory.Wf (Memory.write m addr v) := by
  refine ⟨Memory.write_pairwise hm.1 addr v, fun c hc => ?_⟩
  rcases Memory.mem_write hc with ⟨rfl, hv⟩ | hc
  · exact ⟨ha, hv⟩
  · exact hm.2 c hc

/-- The empty memory is canonical. -/
theorem Memory.nil_wf : Memory.Wf [] := by simp [Memory.Wf]

end Sys2Proof.Machine
end

