-- ==== Sys2Proof/Laws/Cells.lean ====
section
/-! SUPPORT. The storage cells: a read after a write, and the updates that leave every cell alone. -/

namespace Sys2Proof.Machine

/-! ### Updates that touch no cell -/

@[simp] theorem getCell_accept (w : CmdWord) (i : Instr) (rest : List CmdWord) (s : State) (c : SprCell) : getCell (accept w i rest s) c = getCell s c := by cases c <;> rfl
@[simp] theorem getCell_goto (k : Nat) (s : State) (c : SprCell) : getCell (goto k s) c = getCell s c := by cases c <;> rfl
@[simp] theorem getCell_gotoWait (w : WaitPhase) (sub : Sub) (s : State) (c : SprCell) : getCell (gotoWait w sub s) c = getCell s c := by cases c <;> rfl
@[simp] theorem getCell_complete (i : Instr) (s : State) (c : SprCell) : getCell (complete i s) c = getCell s c := by cases c <;> rfl
@[simp] theorem getCell_record (rw : RW) (addr : Addr) (d : Byte) (s : State) (c : SprCell) : getCell (record rw addr d s) c = getCell s c := by cases c <;> rfl
@[simp] theorem getCell_combineSample (s : State) (c : SprCell) : getCell (combineSample s) c = getCell s c := by cases c <;> rfl
@[simp] theorem getCell_tickLine (k : Nat) (s : State) (c : SprCell) : getCell (tickLine k s) c = getCell s c := by cases c <;> rfl
@[simp] theorem getCell_rasterTicks (s : State) (c : SprCell) : getCell (rasterTicks s) c = getCell s c := by
  cases c <;> simp [getCell]
@[simp] theorem getCell_waitDecide (w : WaitPhase) (s : State) (c : SprCell) :
    getCell (waitDecide w s) c = getCell s c := by
  cases c <;> simp [getCell]

/-! ### Reads after writes -/

/-- Two slots of a stride-1 array have different addresses. -/
theorem eaIndexed_inj {base : Addr} {m n : Slot} (h : eaIndexed base m = eaIndexed base n) : m = n := by
  unfold eaIndexed at h
  have h' := congrArg BitVec.toNat (add_left_cancel h)
  have hm := m.isLt
  have hn := n.isLt
  apply BitVec.eq_of_toNat_eq
  simp only [BitVec.toNat_setWidth] at h'
  omega

/-- A cell reads as the byte just written to it. -/
theorem getCell_setCell_same {s : State} (hm : Memory.Wf s.mem) (k : SprCell) (d : Byte) :
    getCell (setCell s k d) k = d := by
  cases k
  case ptr n => exact Memory.read_write_same hm.1 _ d
  all_goals simp [getCell, setCell]

/-- A write leaves every other cell alone. -/
theorem getCell_setCell_other (s : State) {k c : SprCell} (d : Byte) (h : c ≠ k) :
    getCell (setCell s k d) c = getCell s c := by
  have hv : ∀ (vec : Vector Byte 8) {m n : Slot}, m ≠ n → (vec.set n.toNat d)[m.toNat] = vec[m.toNat] := by
    intro vec m n hmn
    exact Vector.getElem_set_ne _ _ fun e => hmn (BitVec.eq_of_toNat_eq e.symm)
  cases k <;> cases c <;> first
    | rfl
    | exact absurd rfl h
    | (refine hv _ fun e => h ?_; rw [e])
    | (refine Memory.read_write_other _ _ fun e => h ?_
       rw [eaIndexed_inj (BitVec.eq_of_toNat_eq e)])

/-- A write to a cell that is not in the pointer block leaves memory alone, and one that is leaves every other
byte of memory alone. -/
theorem read_mem_setCell (s : State) {k : SprCell} (d : Byte) {m : Nat} (h : m ≠ (sprAddr s.cfg k).toNat) :
    Memory.read (setCell s k d).mem m = Memory.read s.mem m := by
  cases k
  case ptr n => exact Memory.read_write_other _ _ h
  all_goals rfl

/-- A write to a cell keeps memory canonical. -/
theorem setCell_mem_wf {s : State} (hm : Memory.Wf s.mem) (k : SprCell) (d : Byte) :
    Memory.Wf (setCell s k d).mem := by
  cases k
  case ptr n => exact Memory.write_wf hm (eaPtr s.cfg n).isLt d
  all_goals exact hm

end Sys2Proof.Machine
end

