-- ==== Sys2Proof/Laws/Decode.lean ====
section
/-! SUPPORT. The fields of a word built from fields, and the word built from its own fields
(30_encoding.md R60). -/

namespace Sys2Proof

/-- The number a concatenation stands for. -/
theorem append_toNat {m n : Nat} (x : BitVec m) (y : BitVec n) : (x ++ y).toNat = x.toNat * 2 ^ n + y.toNat := by
  rw [BitVec.toNat_append, ← Nat.shiftLeft_add_eq_or_of_lt y.isLt, Nat.shiftLeft_eq]

/-- The number a slice stands for. -/
theorem extract_toNat {w : Nat} (x : BitVec w) (start len : Nat) :
    (x.extractLsb' start len).toNat = x.toNat / 2 ^ start % 2 ^ len := by
  rw [BitVec.extractLsb'_toNat, Nat.shiftRight_eq_div_pow]

theorem wordOf_toNat (op : BitVec 4) (n : Slot) (a b : Half) :
    (wordOf op n a b).toNat = ((op.toNat * 16 + n.toNat) * 65536 + a.toNat) * 65536 + b.toNat := by
  have : (wordOf op n a b).toNat = (op ++ 0#1 ++ n ++ a ++ b).toNat := rfl
  rw [this]
  simp only [append_toNat, BitVec.toNat_ofNat]
  omega

/-- Each field of a word is what it was built from, and `Z` is 0. -/
theorem fields_wordOf (op : BitVec 4) (n : Slot) (a b : Half) :
    fieldOp (wordOf op n a b) = op ∧ fieldZ (wordOf op n a b) = 0 ∧ fieldN (wordOf op n a b) = n ∧
      fieldA (wordOf op n a b) = a ∧ fieldB (wordOf op n a b) = b := by
  have := op.isLt
  have := n.isLt
  have := a.isLt
  have := b.isLt
  refine ⟨?_, ?_, ?_, ?_, ?_⟩ <;> apply BitVec.eq_of_toNat_eq <;>
    simp only [fieldOp, fieldZ, fieldN, fieldA, fieldB, extract_toNat, wordOf_toNat, BitVec.reduceToNat] <;> omega

@[simp] theorem fieldOp_wordOf (op : BitVec 4) (n : Slot) (a b : Half) : fieldOp (wordOf op n a b) = op :=
  (fields_wordOf op n a b).1
@[simp] theorem fieldZ_wordOf (op : BitVec 4) (n : Slot) (a b : Half) : fieldZ (wordOf op n a b) = 0 :=
  (fields_wordOf op n a b).2.1
@[simp] theorem fieldN_wordOf (op : BitVec 4) (n : Slot) (a b : Half) : fieldN (wordOf op n a b) = n :=
  (fields_wordOf op n a b).2.2.1
@[simp] theorem fieldA_wordOf (op : BitVec 4) (n : Slot) (a b : Half) : fieldA (wordOf op n a b) = a :=
  (fields_wordOf op n a b).2.2.2.1
@[simp] theorem fieldB_wordOf (op : BitVec 4) (n : Slot) (a b : Half) : fieldB (wordOf op n a b) = b :=
  (fields_wordOf op n a b).2.2.2.2

/-- A word with `Z = 0` is the word of its fields. -/
theorem wordOf_fields (w : CmdWord) (h : fieldZ w = 0) : wordOf (fieldOp w) (fieldN w) (fieldA w) (fieldB w) = w := by
  have hw := w.isLt
  have h' := congrArg BitVec.toNat h
  apply BitVec.eq_of_toNat_eq
  simp only [fieldOp, fieldZ, fieldN, fieldA, fieldB, extract_toNat, wordOf_toNat, BitVec.reduceToNat] at h' ⊢
  omega

/-- A decoded word has `Z = 0`. -/
theorem fieldZ_of_decode {w : CmdWord} {i : Instr} (h : decode w = .ok i) : fieldZ w = 0 := by
  unfold decode at h
  split at h
  · cases h
  · next hz =>
    have hlt := (fieldZ w).isLt
    apply BitVec.eq_of_toNat_eq
    have : (fieldZ w).toNat ≠ 1 := fun e => hz (BitVec.eq_of_toNat_eq e)
    simp only [BitVec.reduceToNat]
    omega

/-- Decoding a word built from fields. -/
theorem decode_wordOf (op : BitVec 4) (n : Slot) (a b : Half) : decode (wordOf op n a b) = decodeFields op n a b := by
  simp [decode]

@[simp] theorem formatted_true (i : Instr) : formatted true i = .ok i := rfl
@[simp] theorem formatted_false (i : Instr) : formatted false i = .error .fieldNotZero := rfl

end Sys2Proof
end

