-- ==== Sys2Proof/Laws/Exec.lean ====
section
/-! SUPPORT. Each command as the shared operation it is, once its index is known to be at most 7, and the index
check of a command that answers a next state. -/

namespace Sys2Proof.Machine

theorem exec_rd (addr : Addr) (s : State) :
    exec (.rd addr) s = withRead addr s fun d t => complete (.rd addr) { t with res := d.setWidth 16 } := rfl

theorem exec_wr (addr : Addr) (value : Byte) (s : State) :
    exec (.wr addr value) s = withWrite addr value s (complete (.wr addr value)) := rfl

theorem exec_setb {bit : Nat} (h : bit < 8) (addr : Addr) (s : State) :
    exec (.setb addr bit) s = readModifyWrite (.setb addr bit) addr (fun v => withBit v (BitVec.ofNat 3 bit)) s := by
  simp only [exec, execSetb, withIndex_of_lt h]

theorem exec_clrb {bit : Nat} (h : bit < 8) (addr : Addr) (s : State) :
    exec (.clrb addr bit) s = readModifyWrite (.clrb addr bit) addr (fun v => withoutBit v (BitVec.ofNat 3 bit)) s := by
  simp only [exec, execClrb, withIndex_of_lt h]

theorem exec_tstb {bit : Nat} (h : bit < 8) (addr : Addr) (s : State) :
    exec (.tstb addr bit) s = withRead addr s fun d t =>
      complete (.tstb addr bit) { t with v := d, res := testBit d (BitVec.ofNat 3 bit) } := by
  simp only [exec, execTstb, withIndex_of_lt h]

theorem exec_sprEn {n : Nat} (h : n < 8) (flag : Bool) (s : State) :
    exec (.sprEn n flag) s =
      readModifyWrite (.sprEn n flag) s.cfg.aSprEnable (fun v => assignBit v (BitVec.ofNat 3 n) flag) s := by
  simp only [exec, execSprEn, withIndex_of_lt h]

theorem exec_sprMc {n : Nat} (h : n < 8) (flag : Bool) (s : State) :
    exec (.sprMc n flag) s =
      readModifyWrite (.sprMc n flag) s.cfg.aSprMcm (fun v => assignBit v (BitVec.ofNat 3 n) flag) s := by
  simp only [exec, execSprMc, withIndex_of_lt h]

theorem exec_sprBlk {n : Nat} (h : n < 8) (block : Byte) (s : State) :
    exec (.sprBlk n block) s =
      withWrite (eaPtr s.cfg (BitVec.ofNat 3 n)) block s (complete (.sprBlk n block)) := by
  simp only [exec, execSprBlk, withIndex_of_lt h]

theorem exec_sprCol {n : Nat} (h : n < 8) (colour : Byte) (s : State) :
    exec (.sprCol n colour) s =
      withWrite (eaColor s.cfg (BitVec.ofNat 3 n)) colour s (complete (.sprCol n colour)) := by
  simp only [exec, execSprCol, withIndex_of_lt h]

theorem exec_sprPos {n : Nat} (h : n < 8) (x y : Half) (s : State) :
    exec (.sprPos n x y) s =
      match s.ph with
      | .step 1 => withWrite (eaPosY s.cfg (BitVec.ofNat 3 n)) (posLow (clampNeg y)) s (goto 2)
      | .step 2 => withRead s.cfg.aXmsb s fun d t => goto 3 { t with v := d }
      | .step 3 => withWrite s.cfg.aXmsb (assignBit s.v (BitVec.ofNat 3 n) (posHigh (clampNeg x))) s
          (complete (.sprPos n x y))
      | _ => withWrite (eaPosX s.cfg (BitVec.ofNat 3 n)) (posLow (clampNeg x)) s (goto 1) := by
  rw [show exec (.sprPos n x y) s = execSprPos n x y s from rfl, execSprPos]
  exact withIndex_of_lt h _

theorem exec_sprCc_second {s : State} (h : s.ph = .step 1) (ca cb : Byte) :
    exec (.sprCc ca cb) s = withWrite s.cfg.aSprMc1 cb s (complete (.sprCc ca cb)) := by
  simp only [exec, execSprCc, h]

theorem exec_sprCc_first {s : State} (h : s.ph ≠ .step 1) (ca cb : Byte) :
    exec (.sprCc ca cb) s = withWrite s.cfg.aSprMc0 ca s (goto 1) := by
  simp only [exec, execSprCc]

theorem exec_rline_second {s : State} (h : s.ph = .step 1) (hm : MapWf s.cfg) :
    exec .rline s = .next (complete .rline { afterSecond s with res := (afterSecond s).l.setWidth 16 }) := by
  simp only [exec, execRline, h]
  exact sampleSecond_spec hm _

theorem exec_rline_first {s : State} (h : s.ph ≠ .step 1) (hm : MapWf s.cfg) :
    exec .rline s = .next (goto 1 (afterFirst s)) := by
  simp only [exec, execRline]
  exact sampleFirst_spec hm _

/-- Which loop of `WAITF` a phase stands in: any phase but `W_PHASE1` and `W_PHASE2` is taken as `W_TEST`. -/
def waitPhaseOf : Phase → WaitPhase
  | .wait w _ => w
  | .idle => .test
  | .step _ => .test

theorem exec_waitf_second {s : State} {w : WaitPhase} (h : s.ph = .wait w .s1) (hm : MapWf s.cfg) :
    exec .waitf s = .next (waitDecide w (afterSecond s)) := by
  simp only [exec, execWaitf, h]
  exact sampleSecond_spec hm _

theorem exec_waitf_first {s : State} (h : ∀ w, s.ph ≠ .wait w .s1) (hm : MapWf s.cfg) :
    exec .waitf s = .next (gotoWait (waitPhaseOf s.ph) .s1 (afterFirst s)) := by
  simp only [exec, execWaitf]
  split
  · next w e => exact absurd e (h w)
  · next w e => rw [e]; exact sampleFirst_spec hm _
  · next h1 h0 =>
    have : waitPhaseOf s.ph = .test := by
      cases hp : s.ph with
      | wait w sub => cases sub
                      · exact absurd hp (h0 w)
                      · exact absurd hp (h1 w)
      | _ => rfl
    rw [this]
    exact sampleFirst_spec hm _

end Sys2Proof.Machine
end

