-- ==== Sys2Proof/Laws/Frames.lean ====
section
/-! SUPPORT. All a SEQ step of any command can do when it answers a next state, said once: the bus transaction, the
registers it may write, the phase it goes to and what the history gains. -/

namespace Sys2Proof.Machine

/-- What happens on the bus in one SEQ step of `i` from `s`: `u` is the state right after it. -/
def BusStep (i : Instr) (s u : State) : Prop :=
  (i.opNumber = 0xB ∧ storeAddr i s = none ∧ u = s) ∨
  (i.opNumber ≠ 0xB ∧ storeAddr i s = none ∧ ∃ addr k, cellAt s.cfg addr = some k ∧ u = afterRead addr k s) ∨
  (i.opNumber ≠ 0xB ∧ ∃ addr k d, storeAddr i s = some addr ∧ cellAt s.cfg addr = some (.spr k) ∧
    u = afterWrite addr k d s)

/-- What a SEQ step of `i` does after its transaction: from `u` to `t`. -/
def AfterBus (i : Instr) (s u t : State) : Prop :=
  ∃ new, t = { u with
      res := t.res, v := t.v, hi := t.hi, lo := t.lo, l := t.l, busy := t.busy, ph := t.ph, draws := t.draws
      hist := new ++ u.hist } ∧
    ((new = [] ∧ t.busy = true ∧ t.ph ≠ .idle ∧ phaseFits i t.ph = true) ∨
      (new = [.completed i] ∧ t.busy = false ∧ t.ph = .idle)) ∧
    (writesRes i = false → t.res = s.res) ∧ (writesV i = false → t.v = s.v) ∧
    (samples i = false → t.hi = s.hi ∧ t.lo = s.lo ∧ t.l = s.l)

theorem setCell_regs (s : State) (k : SprCell) (d : Byte) :
    (setCell s k d).res = s.res ∧ (setCell s k d).v = s.v ∧ (setCell s k d).hi = s.hi ∧
      (setCell s k d).lo = s.lo ∧ (setCell s k d).l = s.l := by
  cases k <;> exact ⟨rfl, rfl, rfl, rfl, rfl⟩

/-- A step that is a bus write and the move to phase `k`. -/
theorem write_goto_spec {i : Instr} {addr : Addr} {d : Byte} {s t : State} {k : Nat} (hi : i.opNumber ≠ 0xB)
    (hs : storeAddr i s = some addr) (hf : phaseFits i (.step k) = true) (h : withWrite addr d s (goto k) = .next t) :
    ∃ u, BusStep i s u ∧ AfterBus i s u t := by
  obtain ⟨c, hc, rfl⟩ := withWrite_eq_next h
  obtain ⟨h1, h2, h3, h4, h5⟩ := setCell_regs s c d
  exact ⟨_, .inr (.inr ⟨hi, addr, c, d, hs, hc, rfl⟩), [], rfl, .inl ⟨rfl, rfl, by simp, hf⟩, fun _ => h1, fun _ => h2,
    fun _ => ⟨h3, h4, h5⟩⟩

/-- A step that is a bus write and the completion. -/
theorem write_complete_spec {i : Instr} {addr : Addr} {d : Byte} {s t : State} (hi : i.opNumber ≠ 0xB)
    (hs : storeAddr i s = some addr) (h : withWrite addr d s (complete i) = .next t) :
    ∃ u, BusStep i s u ∧ AfterBus i s u t := by
  obtain ⟨c, hc, rfl⟩ := withWrite_eq_next h
  obtain ⟨h1, h2, h3, h4, h5⟩ := setCell_regs s c d
  exact ⟨_, .inr (.inr ⟨hi, addr, c, d, hs, hc, rfl⟩), [.completed i], rfl, .inr ⟨rfl, rfl, rfl⟩, fun _ => h1,
    fun _ => h2, fun _ => ⟨h3, h4, h5⟩⟩

/-- A step of a read-modify-write. -/
theorem readModifyWrite_spec {i : Instr} {addr : Addr} {modify : Byte → Byte} {s t : State} (hi : i.opNumber ≠ 0xB)
    (hs : storeAddr i s = if s.ph = .step 1 then some addr else none) (hf : phaseFits i (.step 1) = true)
    (hv : writesV i = true) (h : readModifyWrite i addr modify s = .next t) :
    ∃ u, BusStep i s u ∧ AfterBus i s u t := by
  by_cases hp : s.ph = .step 1
  · rw [readModifyWrite_write hp] at h
    exact write_complete_spec hi (by rw [hs, if_pos hp]) h
  · rw [readModifyWrite_read hp] at h
    obtain ⟨c, hc, rfl⟩ := withRead_eq_next h
    exact ⟨_, .inr (.inl ⟨hi, by rw [hs, if_neg hp], addr, c, hc, rfl⟩), [], rfl, .inl ⟨rfl, rfl, by simp, hf⟩,
      fun _ => rfl, fun e => by simp [hv] at e, fun _ => ⟨rfl, rfl, rfl⟩⟩

/-- A read of a sample, and what follows it. -/
theorem sample_spec {i : Instr} {s t : State} (hi : i = .rline ∨ i = .waitf) {next : State → State}
    (hn : ∀ u, AfterBus i u u (next u) ∧ (i = .waitf → (next u).res = u.res) ∧ (next u).v = u.v)
    (h : sampleFirst s next = .next t ∨ sampleSecond s next = .next t) :
    ∃ u, BusStep i s u ∧ AfterBus i s u t := by
  have hop : i.opNumber ≠ 0xB := by rcases hi with rfl | rfl <;> decide
  have hst : storeAddr i s = none := by rcases hi with rfl | rfl <;> rfl
  have hsm : samples i = true := by rcases hi with rfl | rfl <;> rfl
  have key : ∀ (addr : Addr) (c : Cell) (u : State), cellAt s.cfg addr = some c →
      u = { afterRead addr c s with hi := u.hi, lo := u.lo, l := u.l } → t = next u →
      ∃ u, BusStep i s u ∧ AfterBus i s u t := by
    intro addr c u hc hu ht
    refine ⟨afterRead addr c s, .inr (.inl ⟨hop, hst, addr, c, hc, rfl⟩), ?_⟩
    obtain ⟨⟨new, e, hb, hr, -, -⟩, hw, hv⟩ := hn u
    rw [← ht] at e hb hr hw hv
    refine ⟨new, ?_, hb, fun hw' => ?_, fun _ => ?_, fun hs' => by simp [hsm] at hs'⟩
    · rw [e, hu]
    · rcases hi with rfl | rfl
      · cases hw'
      · rw [hw rfl, hu]; rfl
    · rw [hv, hu]; rfl
  rcases h with h | h
  · unfold sampleFirst readHi readLo at h
    split at h
    · obtain ⟨c, hc, ht⟩ := withRead_eq_next h
      exact key _ c _ hc rfl ht
    · obtain ⟨c, hc, ht⟩ := withRead_eq_next h
      exact key _ c _ hc rfl ht
  · unfold sampleSecond readHi readLo at h
    split at h
    · obtain ⟨c, hc, ht⟩ := withRead_eq_next h
      exact key _ c _ hc rfl ht
    · obtain ⟨c, hc, ht⟩ := withRead_eq_next h
      exact key _ c _ hc rfl ht

/-- What follows a sample of `WAITF`. -/
theorem waitDecide_spec (w : WaitPhase) (u : State) :
    AfterBus .waitf u u (waitDecide w u) ∧ (Instr.waitf = .waitf → (waitDecide w u).res = u.res) ∧
      (waitDecide w u).v = u.v := by
  refine ⟨?_, fun _ => waitDecide_res w u, waitDecide_v w u⟩
  have hgo : ∀ w' : WaitPhase, AfterBus .waitf u u (gotoWait w' .s0 u) := fun w' =>
    ⟨[], rfl, .inl ⟨rfl, rfl, by simp, rfl⟩, fun _ => rfl, fun _ => rfl, fun _ => ⟨rfl, rfl, rfl⟩⟩
  have hco : AfterBus .waitf u u (complete .waitf u) :=
    ⟨[.completed .waitf], rfl, .inr ⟨rfl, rfl, rfl⟩, fun _ => rfl, fun _ => rfl, fun _ => ⟨rfl, rfl, rfl⟩⟩
  cases w <;> simp only [waitDecide] <;> split
  · exact hgo _
  · exact hgo _
  · exact hgo _
  · exact hgo _
  · exact hco
  · exact hgo _

/-- All a SEQ step of any command can do when it answers a next state: one transaction, and what follows it. -/
theorem exec_eq_next {i : Instr} {s t : State} (h : exec i s = .next t) :
    ∃ u, BusStep i s u ∧ AfterBus i s u t := by
  cases i with
  | rd addr =>
    obtain ⟨c, hc, rfl⟩ := withRead_eq_next (exec_rd addr s ▸ h)
    exact ⟨_, .inr (.inl ⟨by simp [Instr.opNumber], rfl, addr, c, hc, rfl⟩), [.completed (.rd addr)], rfl, .inr ⟨rfl, rfl, rfl⟩,
      nofun, fun _ => rfl, fun _ => ⟨rfl, rfl, rfl⟩⟩
  | wr addr value => exact write_complete_spec (by simp [Instr.opNumber]) rfl (exec_wr addr value s ▸ h)
  | setb addr bit =>
    have hb : bit < 8 := (withIndex_eq_next (by simpa only [exec, execSetb] using h)).1
    exact readModifyWrite_spec (by simp [Instr.opNumber]) rfl rfl rfl (exec_setb hb addr s ▸ h)
  | clrb addr bit =>
    have hb : bit < 8 := (withIndex_eq_next (by simpa only [exec, execClrb] using h)).1
    exact readModifyWrite_spec (by simp [Instr.opNumber]) rfl rfl rfl (exec_clrb hb addr s ▸ h)
  | tstb addr bit =>
    have hb : bit < 8 := (withIndex_eq_next (by simpa only [exec, execTstb] using h)).1
    obtain ⟨c, hc, rfl⟩ := withRead_eq_next (exec_tstb hb addr s ▸ h)
    exact ⟨_, .inr (.inl ⟨by simp [Instr.opNumber], rfl, addr, c, hc, rfl⟩), [.completed (.tstb addr bit)], rfl,
      .inr ⟨rfl, rfl, rfl⟩, nofun, nofun, fun _ => ⟨rfl, rfl, rfl⟩⟩
  | sprEn n flag =>
    have hb : n < 8 := (withIndex_eq_next (by simpa only [exec, execSprEn] using h)).1
    exact readModifyWrite_spec (by simp [Instr.opNumber]) rfl rfl rfl (exec_sprEn hb flag s ▸ h)
  | sprMc n flag =>
    have hb : n < 8 := (withIndex_eq_next (by simpa only [exec, execSprMc] using h)).1
    exact readModifyWrite_spec (by simp [Instr.opNumber]) rfl rfl rfl (exec_sprMc hb flag s ▸ h)
  | sprBlk n block =>
    have hb : n < 8 := (withIndex_eq_next (by simpa only [exec, execSprBlk] using h)).1
    exact write_complete_spec (by simp [Instr.opNumber]) rfl (exec_sprBlk hb block s ▸ h)
  | sprCol n colour =>
    have hb : n < 8 := (withIndex_eq_next (by simpa only [exec, execSprCol] using h)).1
    exact write_complete_spec (by simp [Instr.opNumber]) rfl (exec_sprCol hb colour s ▸ h)
  | sprPos n x y =>
    have hb : n < 8 := (withIndex_eq_next (by simpa only [exec, execSprPos] using h)).1
    rw [exec_sprPos hb] at h
    split at h
    · next hp => exact write_goto_spec (by simp [Instr.opNumber]) (by simp [storeAddr, hp]) rfl h
    · next hp =>
      obtain ⟨c, hc, rfl⟩ := withRead_eq_next h
      exact ⟨_, .inr (.inl ⟨by simp [Instr.opNumber], by simp [storeAddr, hp], _, c, hc, rfl⟩), [], rfl,
        .inl ⟨rfl, rfl, by simp, rfl⟩, fun _ => rfl, nofun, fun _ => ⟨rfl, rfl, rfl⟩⟩
    · next hp => exact write_complete_spec (by simp [Instr.opNumber]) (by simp [storeAddr, hp]) h
    · next h1 h2 h3 =>
      refine write_goto_spec (by simp [Instr.opNumber]) ?_ rfl h
      simp only [storeAddr]
      rw [if_neg h1, if_neg h2, if_neg h3]
  | sprCc ca cb =>
    by_cases hp : s.ph = .step 1
    · exact write_complete_spec (by simp [Instr.opNumber]) (by simp [storeAddr, hp]) (exec_sprCc_second hp ca cb ▸ h)
    · exact write_goto_spec (by simp [Instr.opNumber]) (by simp [storeAddr, hp]) rfl (exec_sprCc_first hp ca cb ▸ h)
  | blkAddr pointer =>
    simp only [exec, execBlkAddr] at h
    cases h
    refine ⟨s, .inl ⟨rfl, rfl, rfl⟩, [.completed (.blkAddr pointer)], ?_, .inr ⟨rfl, rfl, rfl⟩, nofun, fun _ => ?_,
      fun _ => ?_⟩ <;> split <;> first | rfl | exact ⟨rfl, rfl, rfl⟩
  | rline =>
    simp only [exec, execRline] at h
    split at h
    · exact sample_spec (next := fun t => complete .rline { t with res := t.l.setWidth 16 }) (.inl rfl)
        (fun u => ⟨⟨[.completed .rline], rfl, .inr ⟨rfl, rfl, rfl⟩, nofun, fun _ => rfl,
        fun _ => ⟨rfl, rfl, rfl⟩⟩, nofun, rfl⟩) (.inr h)
    · exact sample_spec (next := goto 1) (.inl rfl) (fun u => ⟨⟨[], rfl, .inl ⟨rfl, rfl, by simp, rfl⟩, nofun, fun _ => rfl,
        fun _ => ⟨rfl, rfl, rfl⟩⟩, nofun, rfl⟩) (.inl h)
  | waitf =>
    have hgo : ∀ (w : WaitPhase) (u : State), AfterBus .waitf u u (gotoWait w .s1 u) ∧
        (Instr.waitf = .waitf → (gotoWait w .s1 u).res = u.res) ∧ (gotoWait w .s1 u).v = u.v := fun w u =>
      ⟨⟨[], rfl, .inl ⟨rfl, rfl, by simp, rfl⟩, fun _ => rfl, fun _ => rfl, fun _ => ⟨rfl, rfl, rfl⟩⟩,
        fun _ => rfl, rfl⟩
    simp only [exec, execWaitf] at h
    split at h
    · exact sample_spec (.inr rfl) (waitDecide_spec _) (.inr h)
    · exact sample_spec (.inr rfl) (hgo _) (.inl h)
    · exact sample_spec (.inr rfl) (hgo _) (.inl h)

end Sys2Proof.Machine
end

