-- ==== Sys2Proof/Laws/History.lean ====
section
/-! SUPPORT. What a SEQ step adds to the terms read off the event history: the updates and the commit windows. -/

namespace Sys2Proof.Machine

/-- A step makes at most one write, on the present line of the present frame. -/
theorem mem_updateWrites_of_exec {i : Instr} {s t : State} (h : exec i s = .next t) {k : Nat} {w : Nat × Line}
    (hw : w ∈ updateWrites k t.hist) : w ∈ updateWrites k s.hist ∨ w = (s.frame, s.line) := by
  obtain ⟨u, hb, new, e, hn, -⟩ := exec_eq_next h
  have ht : updateWrites k t.hist = updateWrites k u.hist := by
    rw [show t.hist = new ++ u.hist by rw [e]]
    rcases hn with ⟨rfl, -⟩ | ⟨rfl, -⟩ <;> rfl
  rw [ht] at hw
  rcases hb with ⟨-, -, rfl⟩ | ⟨-, -, addr, c, -, rfl⟩ | ⟨-, addr, c, d, -, -, rfl⟩
  · exact .inl hw
  · exact .inl hw
  · simp only [afterWrite, record_hist, setCell_hist, setCell_line, setCell_frame, updateWrites] at hw
    split at hw
    · exact (List.mem_cons.1 hw).symm
    · exact .inl hw

/-- No SEQ step accepts a command. -/
theorem acceptedAfter_of_exec {i : Instr} {s t : State} (h : exec i s = .next t) (k : Nat) :
    acceptedAfter k t.hist = acceptedAfter k s.hist := by
  obtain ⟨u, hb, new, e, hn, -⟩ := exec_eq_next h
  have ht : acceptedAfter k t.hist = acceptedAfter k u.hist := by
    rw [show t.hist = new ++ u.hist by rw [e]]
    rcases hn with ⟨rfl, -⟩ | ⟨rfl, -⟩ <;> rfl
  rw [ht]
  rcases hb with ⟨-, -, rfl⟩ | ⟨-, -, addr, c, -, rfl⟩ | ⟨-, addr, c, d, -, -, rfl⟩
  · rfl
  · rfl
  · simp [afterWrite, acceptedAfter]

/-- A line lies in some blanking interval exactly when it is in `in_blank`. -/
theorem blankingInterval_eq_some_iff (c : Config) (frame line : Nat) :
    (∃ b, blankingInterval c frame line = some b) ↔ inBlank c line = true := by
  simp only [inBlank, blankingInterval, Bool.or_eq_true, decide_eq_true_eq]
  split
  · simp [*]
  · split <;> simp [*]

end Sys2Proof.Machine
end

