-- ==== Sys2Proof/Laws/PerInstr.lean ====
section
/-! SUPPORT. Facts proved one command at a time. -/

namespace Sys2Proof.Laws.OpNumber

/-- The command's word carries its operation number in `OP` and 0 in `Z` (30_encoding.md R63, R64). -/
def Statement (i : Instr) : Prop := fieldOp (encode i) = i.opNumber ∧ fieldZ (encode i) = 0

theorem rd (addr : Addr) : Statement (.rd addr) := by simp [Statement, encode, Instr.opNumber]
theorem wr (addr : Addr) (value : Byte) : Statement (.wr addr value) := by simp [Statement, encode, Instr.opNumber]
theorem setb (addr : Addr) (bit : Nat) : Statement (.setb addr bit) := by simp [Statement, encode, Instr.opNumber]
theorem clrb (addr : Addr) (bit : Nat) : Statement (.clrb addr bit) := by simp [Statement, encode, Instr.opNumber]
theorem tstb (addr : Addr) (bit : Nat) : Statement (.tstb addr bit) := by simp [Statement, encode, Instr.opNumber]
theorem sprEn (n : Nat) (flag : Bool) : Statement (.sprEn n flag) := by simp [Statement, encode, Instr.opNumber]
theorem sprMc (n : Nat) (flag : Bool) : Statement (.sprMc n flag) := by simp [Statement, encode, Instr.opNumber]
theorem sprBlk (n : Nat) (block : Byte) : Statement (.sprBlk n block) := by simp [Statement, encode, Instr.opNumber]
theorem sprPos (n : Nat) (x y : Half) : Statement (.sprPos n x y) := by simp [Statement, encode, Instr.opNumber]
theorem sprCol (n : Nat) (colour : Byte) : Statement (.sprCol n colour) := by simp [Statement, encode, Instr.opNumber]
theorem sprCc (ca cb : Byte) : Statement (.sprCc ca cb) := by simp [Statement, encode, Instr.opNumber]
theorem blkAddr (pointer : Addr) : Statement (.blkAddr pointer) := by simp [Statement, encode, Instr.opNumber]
theorem rline : Statement .rline := by simp [Statement, encode, Instr.opNumber]
theorem waitf : Statement .waitf := by simp [Statement, encode, Instr.opNumber]

end Sys2Proof.Laws.OpNumber
end

