-- ==== Sys2Proof/Laws/Raster.lean ====
section
/-! SUPPORT. RASTER's ticks keep the line in range; what `step` does around `exec`. -/

namespace Sys2Proof.Machine

@[simp] theorem lineAfter_zero (lines : Nat) (line : Line) : lineAfter lines line 0 = line := rfl

theorem lineAfter_succ (lines : Nat) (line : Line) (k : Nat) :
    lineAfter lines line (k + 1) = nextLine lines (lineAfter lines line k) := rfl

/-- A tick leaves the line in range. -/
theorem nextLine_lt {lines : Nat} (h : 0 < lines) (line : Line) : (nextLine lines line).toNat < lines := by
  have := Nat.mod_lt (line.toNat + 1) h
  simp only [nextLine, BitVec.toNat_ofNat]
  exact lt_of_le_of_lt (Nat.mod_le _ _) this

/-- Any number of ticks leaves the line in range. -/
theorem lineAfter_lt {lines : Nat} {line : Line} (h : line.toNat < lines) (k : Nat) :
    (lineAfter lines line k).toNat < lines := by
  cases k with
  | zero => exact h
  | succ k => exact nextLine_lt (by omega) _

/-- The line after a number of ticks, as a remainder. -/
theorem lineAfter_toNat {lines : Nat} {line : Line} (hm : lines ≤ 512) (h : line.toNat < lines) (k : Nat) :
    (lineAfter lines line k).toNat = (line.toNat + k) % lines := by
  induction k with
  | zero => exact (Nat.mod_eq_of_lt h).symm
  | succ k ih =>
    have := Nat.mod_lt (line.toNat + k + 1) (by omega : 0 < lines)
    rw [lineAfter_succ, nextLine, BitVec.toNat_ofNat, ih, Nat.mod_add_mod, Nat.mod_eq_of_lt (by omega), Nat.add_assoc]

/-- The frames begun during a number of ticks, as a quotient. -/
theorem framesAfter_eq {lines : Nat} {line : Line} (hm : lines ≤ 512) (h : line.toNat < lines) (k : Nat) :
    framesAfter lines line k = (line.toNat + k) / lines := by
  induction k with
  | zero => exact (Nat.div_eq_of_lt h).symm
  | succ k ih =>
    have hz : lineAfter lines line (k + 1) = 0 ↔ (line.toNat + (k + 1)) % lines = 0 := by
      rw [← lineAfter_toNat hm h (k + 1), ← BitVec.toNat_inj]
      rfl
    have e : line.toNat + (k + 1) = (line.toNat + k).succ := rfl
    simp only [framesAfter, ih, hz, e, Nat.succ_div, Nat.dvd_iff_mod_eq_zero, Nat.succ_eq_add_one]

theorem rasterTicks_line_lt {s : State} (h : s.line.toNat < s.cfg.lines) :
    (rasterTicks s).line.toNat < (rasterTicks s).cfg.lines := by
  unfold rasterTicks
  split <;> exact lineAfter_lt h _

/-- The ticks a schedule fixes. -/
theorem rasterTicks_cons {s : State} {k : Nat} {rest : List Nat} (h : s.sched = k :: rest) :
    rasterTicks s = tickLine k { s with sched := rest } := by
  simp only [rasterTicks, h]

theorem thenTicks_next (t : State) : thenTicks (.next t) = .next (rasterTicks t) := rfl

/-- `step` while a command is in progress. -/
theorem step_busy {s : State} {i : Instr} (hc : ConfigWf s.cfg) (hb : s.busy = true)
    (hd : decode (latchedWord s) = .ok i) : step s = thenTicks (exec i s) := by
  simp only [step, if_pos hc, hb, if_true, resume, hd]

/-- `step` when HOST's next word is accepted. -/
theorem step_idle {s : State} {w : CmdWord} {rest : List CmdWord} {i : Instr} (hc : ConfigWf s.cfg)
    (hb : s.busy = false) (hh : s.host = w :: rest) (hd : decode w = .ok i) :
    step s = thenTicks (exec i (accept w i rest s)) := by
  simp [step, if_pos hc, hb, takeCommand, hh, hd]

/-- After a word is accepted the latches hold it. -/
theorem latchedWord_accept {w : CmdWord} {i : Instr} (hd : decode w = .ok i) (rest : List CmdWord) (s : State) :
    latchedWord (accept w i rest s) = w := wordOf_fields w (fieldZ_of_decode hd)

/-- A run whose first step answers a next state goes on from it. -/
theorem run_of_step {s t : State} (h : step s = .next t) (k : Nat) :
    Host.Core.run Sys2Proof.core (k + 1) s = Host.Core.run Sys2Proof.core k t := by
  simp only [Host.Core.run]
  rw [show Sys2Proof.core.step s = .next t from h]

end Sys2Proof.Machine
end

