-- ==== Sys2Proof/Laws/Samples.lean ====
section
/-! SUPPORT. A sample of the raster line as a whole (42_frame_scheduler.md R122): what each of its two reads changes, and
the two steps of `WAITF` that make one sample when no tick falls inside it. -/

namespace Sys2Proof.Machine

theorem busTrace_bus (rw : RW) (addr : Addr) (d : Byte) (line : Line) (frame : Nat) (h : List Event) :
    busTrace (.bus rw addr d line frame :: h) = .bus rw addr d line frame :: busTrace h := rfl

/-- The first read of a sample: one transaction; the byte it reads first shows the present line. -/
theorem afterFirst_spec (s : State) :
    (afterFirst s).cfg = s.cfg ∧ (afterFirst s).line = s.line ∧ (afterFirst s).sched = s.sched ∧
      (afterFirst s).host = s.host ∧ latchedWord (afterFirst s) = latchedWord s ∧ (afterFirst s).res = s.res ∧
      (busTrace (afterFirst s).hist).length = (busTrace s.hist).length + 1 ∧
      (∃ c : BitVec 7, s.cfg.readOrder = .hiFirst → (afterFirst s).hi = s.line.extractLsb' 8 1 ++ c) ∧
      (s.cfg.readOrder = .loFirst → (afterFirst s).lo = s.line.extractLsb' 0 8) := by
  unfold afterFirst
  split <;> rename_i h <;>
    simp [afterRead, record, h, latchedWord, busTrace_bus, readCell, lineHigh, lineLow]

/-- The second read of a sample: one transaction. -/
theorem afterSecond_spec (s : State) :
    (afterSecond s).cfg = s.cfg ∧ (afterSecond s).line = s.line ∧ (afterSecond s).sched = s.sched ∧
      (afterSecond s).host = s.host ∧ latchedWord (afterSecond s) = latchedWord s ∧ (afterSecond s).res = s.res ∧
      (busTrace (afterSecond s).hist).length = (busTrace s.hist).length + 1 := by
  unfold afterSecond
  split <;> rename_i h <;> simp [combineSample, afterRead, record, latchedWord, busTrace_bus]

/-- The combined sample, with the line at `first` when the first read was made. -/
theorem afterSecond_l {s : State} {first : Line} {c : BitVec 7}
    (hi : s.cfg.readOrder = .hiFirst → s.hi = first.extractLsb' 8 1 ++ c)
    (lo : s.cfg.readOrder = .loFirst → s.lo = first.extractLsb' 0 8) :
    ∃ c' : BitVec 7, (afterSecond s).l = match s.cfg.readOrder with
      | .hiFirst => combineLine s.cfg.combine (first.extractLsb' 8 1 ++ c') (s.line.extractLsb' 0 8)
      | .loFirst => combineLine s.cfg.combine (s.line.extractLsb' 8 1 ++ c') (first.extractLsb' 0 8) := by
  unfold afterSecond
  cases h : s.cfg.readOrder
  · exact ⟨c, by simp [combineSample, afterRead, record, hi h, readCell, lineLow]⟩
  · exact ⟨Config.freeCtrlHi s.draws, by simp [combineSample, afterRead, record, lo h, readCell, lineHigh]⟩

/-- If the byte read first shows the present line, the combined sample is that of the present line. -/
theorem afterSecond_l_of_untorn {s : State} {c : BitVec 7}
    (hi : s.cfg.readOrder = .hiFirst → s.hi = s.line.extractLsb' 8 1 ++ c)
    (lo : s.cfg.readOrder = .loFirst → s.lo = s.line.extractLsb' 0 8) :
    ∃ c' : BitVec 7, (afterSecond s).l =
      combineLine s.cfg.combine (s.line.extractLsb' 8 1 ++ c') (s.line.extractLsb' 0 8) := by
  obtain ⟨c', h⟩ := afterSecond_l hi lo
  exact ⟨c', by rw [h]; split <;> rfl⟩

/-- The second step of a sample of `WAITF` whose first step is followed by `k` ticks: `b` is the state with the sample
taken, before the comparison. -/
theorem step_sample {s : State} {w : WaitPhase} {k : Nat} {rest : List Nat} (hc : ConfigWf s.cfg)
    (hp : s.ph = .wait w .s0) (hs : s.sched = k :: rest) (hd : decode (latchedWord s) = .ok .waitf) :
    ∃ (a b : State) (c : BitVec 7), exec .waitf s = .next a ∧
      step (rasterTicks a) = .next (rasterTicks (waitDecide w b)) ∧
      b.cfg = s.cfg ∧ b.line = lineAfter s.cfg.lines s.line k ∧ b.sched = rest ∧ b.host = s.host ∧
      latchedWord b = latchedWord s ∧ b.res = s.res ∧ (busTrace b.hist).length = (busTrace s.hist).length + 2 ∧
      b.l = match s.cfg.readOrder with
        | .hiFirst => combineLine s.cfg.combine (s.line.extractLsb' 8 1 ++ c) (b.line.extractLsb' 0 8)
        | .loFirst => combineLine s.cfg.combine (b.line.extractLsb' 8 1 ++ c) (s.line.extractLsb' 0 8) := by
  obtain ⟨f1, f2, f3, f4, f5, f6, f7, ⟨c, f8⟩, f9⟩ := afterFirst_spec s
  have he : exec .waitf s = .next (gotoWait w .s1 (afterFirst s)) := by
    rw [exec_waitf_first (by simp [hp]) hc.1, hp]
    rfl
  have hr := rasterTicks_cons (s := gotoWait w .s1 (afterFirst s)) (k := k) (rest := rest) (f3.trans hs)
  generalize ht : rasterTicks (gotoWait w .s1 (afterFirst s)) = t at hr
  have tc : t.cfg = s.cfg := by rw [hr]; exact f1
  have tl : t.line = lineAfter s.cfg.lines s.line k := by rw [hr, ← f1, ← f2]; rfl
  have td : latchedWord t = latchedWord s := by rw [hr]; exact f5
  have tp : t.ph = .wait w .s1 := by rw [hr]; rfl
  obtain ⟨g1, g2, g3, g4, g5, g6, g7⟩ := afterSecond_spec t
  obtain ⟨c', hl⟩ := afterSecond_l (s := t) (first := s.line) (c := c)
    (by rw [tc, hr]; exact f8) (by rw [tc, hr]; exact f9)
  have th : t.host = s.host := by rw [hr]; exact f4
  have tr : t.res = s.res := by rw [hr]; exact f6
  have ts : t.sched = rest := by rw [hr]; rfl
  have tb : t.busy = true := by rw [hr]; rfl
  have tn : t.hist = (afterFirst s).hist := by rw [hr]; rfl
  have hst : step t = .next (rasterTicks (waitDecide w (afterSecond t))) := by
    rw [step_busy (tc ▸ hc) tb (td.symm ▸ hd), exec_waitf_second tp (tc ▸ hc.1)]
    rfl
  clear hr
  exact ⟨_, afterSecond t, c', he, ht ▸ hst, g1.trans tc, g2.trans tl, g3.trans ts, g4.trans th, g5.trans td,
    g6.trans tr, by rw [g7, tn, f7], by rw [hl, tc, g2]⟩

/-- The second step of a sample of `WAITF` whose first step is followed by no tick. -/
theorem step_untorn_sample {s : State} {w : WaitPhase} {rest : List Nat} (hc : ConfigWf s.cfg) (hp : s.ph = .wait w .s0)
    (hs : s.sched = 0 :: rest) (hd : decode (latchedWord s) = .ok .waitf) :
    ∃ (a b : State) (c : BitVec 7), exec .waitf s = .next a ∧
      step (rasterTicks a) = .next (rasterTicks (waitDecide w b)) ∧
      b.cfg = s.cfg ∧ b.line = s.line ∧ b.sched = rest ∧ b.host = s.host ∧ latchedWord b = latchedWord s ∧
      b.res = s.res ∧ (busTrace b.hist).length = (busTrace s.hist).length + 2 ∧
      b.l = combineLine s.cfg.combine (s.line.extractLsb' 8 1 ++ c) (s.line.extractLsb' 0 8) := by
  obtain ⟨a, b, c, h1, h2, h3, h4, h5, h6, h7, h8, h9, h10⟩ := step_sample hc hp hs hd
  rw [lineAfter_zero] at h4
  rw [h4] at h10
  exact ⟨a, b, c, h1, h2, h3, h4, h5, h6, h7, h8, h9, by rw [h10]; split <;> rfl⟩

/-- Where `WAITF` goes after a sample, the next state in full: it completes exactly from `W_PHASE2` at `T_BLANK` or
beyond. -/
theorem waitDecide_eq (w : WaitPhase) (u : State) :
    waitDecide w u =
      if w = .phase2 ∧ u.cfg.tBlank ≤ u.l.toNat then complete .waitf u
      else gotoWait (match w with
        | .test => if u.cfg.tLate < u.l.toNat then .phase1 else .phase2
        | .phase1 => if u.l.toNat < u.cfg.tLow then .phase2 else .phase1
        | .phase2 => .phase2) .s0 u := by
  cases w <;> simp only [waitDecide, pastLate, belowLow, reachesBlank, decide_eq_true_eq] <;> split <;> simp_all

end Sys2Proof.Machine
end

