-- ==== Sys2Proof/Tests/Slice0.lean ====
section
/-! SUPPORT. Tests. Expected values are those of 95_test_vectors.md (named E, V or "decode vectors" there) or follow
by hand from the rule cited; the configuration is REF. -/

open Sys2Proof Sys2Proof.Machine

namespace Sys2Proof.Tests

/-- Idle under REF, with no tick for the next steps. -/
def quiet : State := { State.reset with sched := [0, 0, 0, 0] }

/-- The state after `k` steps has the property. -/
def after (k : Nat) (s : State) (p : State → Bool) : Bool :=
  match Host.Core.run Sys2Proof.core k s with
  | .next t => p t
  | .fault _ => false
  | .refused _ => false

/-- The run is refused, for this reason, within `k` steps. -/
def refuses (k : Nat) (s : State) (r : Refusal) : Bool :=
  match Host.Core.run Sys2Proof.core k s with
  | .next _ => false
  | .fault _ => false
  | .refused q => decide ((show Refusal from q) = r)

/-- The bus transactions of a state, oldest first, without the line. -/
def trace (s : State) : List (RW × Addr × Byte) :=
  s.hist.reverse.filterMap fun e =>
    match e with
    | .bus rw addr d _ _ => some (rw, addr, d)
    | .accepted _ => none
    | .completed _ => none

/-! ### WellFormed: each check refuses an ill-formed term -/

theorem test_setb_index_8 : (Instr.setb 0xD015 8).wellFormed = false ∧ (Instr.setb 0xD015 7).wellFormed = true := by decide
theorem test_clrb_index_8 : (Instr.clrb 0xD015 8).wellFormed = false ∧ (Instr.clrb 0xD015 7).wellFormed = true := by decide
theorem test_tstb_index_8 : (Instr.tstb 0xD015 8).wellFormed = false ∧ (Instr.tstb 0xD015 7).wellFormed = true := by decide
theorem test_sprEn_index_8 : (Instr.sprEn 8 true).wellFormed = false ∧ (Instr.sprEn 7 true).wellFormed = true := by decide
theorem test_sprMc_index_8 : (Instr.sprMc 8 true).wellFormed = false ∧ (Instr.sprMc 7 true).wellFormed = true := by decide
theorem test_sprBlk_index_8 : (Instr.sprBlk 8 0).wellFormed = false ∧ (Instr.sprBlk 7 0).wellFormed = true := by decide
theorem test_sprPos_index_8 : (Instr.sprPos 8 0 0).wellFormed = false ∧ (Instr.sprPos 7 0 0).wellFormed = true := by decide
theorem test_sprCol_index_8 : (Instr.sprCol 8 0).wellFormed = false ∧ (Instr.sprCol 7 0).wellFormed = true := by decide

/-! The constraints of 00_scope.md section 4: REF meets them, and each refuses a configuration. -/

theorem test_ref_wf : ConfigWf Config.ref := by decide
theorem test_two_cells_one_address : ¬ ConfigWf { Config.ref with aXmsb := 0xD015 } := by decide
theorem test_cell_inside_position_block : ¬ ConfigWf { Config.ref with aSprMcm := 0xD00F } := by decide
theorem test_position_block_wraps : ¬ ConfigWf { Config.ref with aPosBase := 0xFFF1 } := by decide
theorem test_color_block_wraps : ¬ ConfigWf { Config.ref with aSprColorBase := 0xFFF9 } := by decide
theorem test_bank_unaligned : ¬ ConfigWf { Config.ref with bankBase := 0x0001 } := by decide
theorem test_bank_too_small : ¬ ConfigWf { Config.ref with bankSize := 8192 } := by decide
theorem test_screen_below_bank : ¬ ConfigWf { Config.ref with bankBase := 0x4000 } := by decide
theorem test_pointers_above_bank : ¬ ConfigWf { Config.ref with ptrOffset := 0x3BF9 } := by decide
theorem test_late_at_blank : ¬ ConfigWf { Config.ref with tLate := 251 } := by decide
theorem test_low_zero : ¬ ConfigWf { Config.ref with tLow := 0 } := by decide
theorem test_low_above_blank : ¬ ConfigWf { Config.ref with tLow := 252 } := by decide
theorem test_blank_at_lines : ¬ ConfigWf { Config.ref with tBlank := 312 } := by decide
theorem test_lines_513 : ¬ ConfigWf { Config.ref with lines := 513 } := by decide
theorem test_first_zero : ¬ ConfigWf { Config.ref with vFirst := 0 } := by decide
theorem test_first_after_late : ¬ ConfigWf { Config.ref with vFirst := 251 } := by decide
/-- V135. -/
theorem test_low8_blank_300 : ¬ ConfigWf { Config.ref with combine := .low8, tBlank := 300 } := by decide
theorem test_low8_lines_507 : ¬ ConfigWf { Config.ref with combine := .low8, lines := 507 } ∧
    ConfigWf { Config.ref with combine := .low8, lines := 506 } := by decide
/-- V33's configuration. -/
theorem test_bank_3_wf : ConfigWf { Config.ref with bankBase := 0xC000, screenBase := 0xC400 } := by
  decide

/-! ### Decoding: one word of every command, from 95_test_vectors.md -/

theorem test_decode_rd : decode 0x00D0120000 = .ok (.rd 0xD012) := by decide
theorem test_decode_wr : decode 0x10D02000FF = .ok (.wr 0xD020 0xFF) := by decide
theorem test_decode_setb : decode 0x27D0150000 = .ok (.setb 0xD015 7) := by decide
theorem test_decode_clrb : decode 0x31D0100000 = .ok (.clrb 0xD010 1) := by decide
theorem test_decode_tstb : decode 0x47D0110000 = .ok (.tstb 0xD011 7) := by decide
theorem test_decode_sprEn : decode 0x5700000001 = .ok (.sprEn 7 true) := by decide
theorem test_decode_sprMc : decode 0x6300000000 = .ok (.sprMc 3 false) := by decide
theorem test_decode_sprBlk : decode 0x72000000FF = .ok (.sprBlk 2 0xFF) := by decide
theorem test_decode_sprPos : decode 0x81012C0032 = .ok (.sprPos 1 300 50) := by decide
theorem test_decode_sprCol : decode 0x9100000007 = .ok (.sprCol 1 7) := by decide
theorem test_decode_sprCc : decode 0xA0000F000E = .ok (.sprCc 0x0F 0x0E) := by decide
theorem test_decode_blkAddr : decode 0xB0FFFF0000 = .ok (.blkAddr 0xFFFF) := by decide
theorem test_decode_rline : decode 0xC000000000 = .ok .rline := by decide
theorem test_decode_waitf : decode 0xD000000000 = .ok .waitf := by decide
/-- The reserved words of the decode vectors. -/
theorem test_decode_reserved :
    [0x01D0120000, 0x00D0120001, 0x10D0200100, 0x47D0150001, 0x5700000002, 0x5700010001, 0x7200000100, 0x9100010007,
      0xA1000F000E, 0xA0010F000E, 0xB0FFFF0001, 0xC000000001, 0xC100000000].all
        (fun w => decode w = .error .fieldNotZero) = true ∧
    [0x28D0150000, 0x8FFFFFFFFF, 0xD800000000].all (fun w => decode w = .error .zIsOne) = true ∧
    [0xE000000000, 0xF000000000].all (fun w => decode w = .error .opUnassigned) = true := by decide
/-- `SPR_POS 7, -1, -1` (decode vectors), and back. -/
theorem test_encode_sprPos : encode (.sprPos 7 (-1) (-1)) = 0x87FFFFFFFF := by decide
/-- E7's word through the host's two entry points. -/
theorem test_withFetchWord : decodeTableWord 40 0x81012C0032 = some (.sprPos 1 300 50) ∧
    after 1 (quiet.withFetchWord 40 0x81012C0032) (fun t => t.sprX[1] = 44 && t.ph = .step 1 && t.busy) = true := by
  decide

/-! ### The commands -/

/-- V1. -/
theorem test_rd : after 1 { quiet with host := [0x00D0150000], sprEnable := 0xA5 }
    (fun t => t.res = 0x00A5 && trace t = [(.read, 0xD015, 0xA5)] && !t.busy) = true := by decide
/-- V16. -/
theorem test_rd_unmapped : refuses 1 { quiet with host := [0x0012340000] } (.outsideBlockMap 0x1234) = true := by decide
/-- V2. -/
theorem test_wr : after 1 { quiet with host := [0x10D01500FF], res := 7 }
    (fun t => t.sprEnable = 0xFF && t.res = 7 && trace t = [(.write, 0xD015, 0xFF)]) = true := by decide
/-- V14. -/
theorem test_wr_raster : refuses 1 { quiet with host := [0x10D0120000] } (.rasterWrite 0xD012) = true := by decide
/-- V5: the write happens though the bit is set. -/
theorem test_setb : after 2 { quiet with host := [0x21D0100000], sprXmsb := 0x02 }
    (fun t => t.sprXmsb = 0x02 && trace t = [(.read, 0xD010, 0x02), (.write, 0xD010, 0x02)]) = true := by decide
/-- V15. -/
theorem test_setb_raster : refuses 2 { quiet with host := [0x23D0110000] } (.rasterWrite 0xD011) = true := by decide
/-- V7. -/
theorem test_clrb : after 2 { quiet with host := [0x31D0100000], sprXmsb := 0xFF }
    (fun t => t.sprXmsb = 0xFD && trace t = [(.read, 0xD010, 0xFF), (.write, 0xD010, 0xFD)]) = true := by decide
/-- V9. -/
theorem test_tstb : after 1 { quiet with host := [0x47D0150000], sprEnable := 0x80 } (fun t => t.res = 1) = true := by decide
/-- V10. -/
theorem test_tstb_clear : after 1 { quiet with host := [0x41D0150000], sprEnable := 0x80, res := 9 }
    (fun t => t.res = 0 && t.sprEnable = 0x80) = true := by decide
/-- V22. -/
theorem test_sprEn : after 2 { quiet with host := [0x5300000001], sprEnable := 0x81 }
    (fun t => t.sprEnable = 0x89 && trace t = [(.read, 0xD015, 0x81), (.write, 0xD015, 0x89)]) = true := by decide
/-- V23. -/
theorem test_sprMc : after 2 { quiet with host := [0x6300000000], sprMcm := 0x89 }
    (fun t => t.sprMcm = 0x81 && t.sprEnable = 0 && trace t = [(.read, 0xD01C, 0x89), (.write, 0xD01C, 0x81)]) = true := by
  decide
/-- V31. -/
theorem test_sprBlk : after 1 { quiet with host := [0x720000000D] }
    (fun t => getCell t (.ptr 2) = 0x0D && dataBlock t 2 = 0x0340 && trace t = [(.write, 0x07FA, 0x0D)]) = true := by decide
/-- V33. -/
theorem test_sprBlk_bank_3 : after 1 { quiet with
      host := [0x77000000FF], cfg := { Config.ref with bankBase := 0xC000, screenBase := 0xC400 } }
    (fun t => dataBlock t 7 = 0xFFC0 && t.mem = [(0xC7FF, 0xFF)]) = true := by decide
/-- E7, V43. -/
theorem test_sprPos : after 4 { quiet with host := [0x81012C0032] }
    (fun t => x9 t 1 = 300 && y8 t 1 = 50 && trace t =
      [(.write, 0xD002, 0x2C), (.write, 0xD003, 0x32), (.read, 0xD010, 0x00), (.write, 0xD010, 0x02)]) = true := by decide
/-- V48: the most negative x, y beyond the device's range. -/
theorem test_sprPos_negative : after 4 { quiet with host := [0x8580007FFF], sprXmsb := 0x20 }
    (fun t => x9 t 5 = 0 && y8 t 5 = 255 && t.sprXmsb = 0) = true := by decide
/-- V35. -/
theorem test_sprCol : after 1 { quiet with host := [0x97000000FF] }
    (fun t => t.sprColor[7] = 0xFF && trace t = [(.write, 0xD02E, 0xFF)]) = true := by decide
/-- V36. -/
theorem test_sprCc : after 2 { quiet with host := [0xA000020006] }
    (fun t => t.sprMc0 = 2 && t.sprMc1 = 6 && trace t = [(.write, 0xD025, 2), (.write, 0xD026, 6)]) = true := by decide
/-- V64. -/
theorem test_blkAddr : after 1 { quiet with host := [0xB0035F0000] } (fun t => t.res = 0x0D && trace t = []) = true := by
  decide
/-- V65 and V66 (the last block of the bank). -/
theorem test_blkAddr_last : after 1 { quiet with host := [0xB03FFF0000] } (fun t => t.res = 0xFF) = true := by decide
/-- V88 in mode `LOW8`; the sample does not depend on `CTRL_HI`. -/
theorem test_rline_low8 : after 2 { quiet with
      host := [0xC000000000], line := 300, cfg := { Config.ref with combine := .low8 } }
    (fun t => t.res = 0x002C && !t.busy) = true := by decide
/-- E9 in mode `NINE`: the second read, the first having given `hi = 0x9B`. -/
theorem test_rline_nine : after 1 { quiet with
      op := 0xC, busy := true, ph := .step 1, hi := 0x9B, line := 300 } (fun t => t.res = 300) = true := by decide
/-- V104 in mode `LOW8`: one tick after the test sample 250, then 251 completes. -/
theorem test_waitf : after 4 { quiet with
      host := [0xD000000000], line := 250, sched := [0, 1, 0, 0], cfg := { Config.ref with combine := .low8 } }
    (fun t => !t.busy && t.l = 251 && t.host = [] && gateReturns t.hist = 1) = true := by decide
/-- V105: a test sample of 251 goes to phase 1 (here its second read, after `hi = 0x1B`). -/
theorem test_waitf_late : after 1 { quiet with
      op := 0xD, busy := true, ph := .wait .test .s1, hi := 0x1B, line := 251 }
    (fun t => t.busy && t.ph = .wait .phase1 .s0) = true := by decide

/-! ### The terms claims are stated in -/

/-- Step 2 of Program B: its first two writes fall on lines 253 and 254, in the blanking interval; the commit window
they belong to holds the one command (42_frame_scheduler.md R128, R129). -/
theorem test_commit_window : after 2 { quiet with
      host := [0x8600FF00E5], line := 253, sched := [1, 1], hist := [.completed .waitf] }
    (fun t => updateWrites 1 t.hist = [(0, 254), (0, 253)] && commitWindow 1 t.hist = [.sprPos 6 255 229] &&
      (commitWindow 1 t.hist).all (writesVisible t.cfg)) = true := by decide
/-- What precedes the first completion of `WAITF` belongs to no commit window (70_reset_and_hazards.md R171). -/
theorem test_first_iteration : after 1 { quiet with host := [0x97000000FF] }
    (fun t => commitWindow 0 t.hist = [] && commitWindow 1 t.hist = [] &&
      beforeFirstWindow t.hist = [.sprCol 7 255]) = true := by decide
/-- The last line of REF's blanking interval, through the wrap, and the lines either side of it. -/
theorem test_blanking_interval : blankingInterval Config.ref 0 250 = none ∧ blankingInterval Config.ref 0 251 = some 1 ∧
    blankingInterval Config.ref 1 50 = some 1 ∧ blankingInterval Config.ref 1 51 = none ∧
    blankLeft Config.ref 251 = 112 ∧ blankLeft Config.ref 50 = 1 := by decide
/-- R170, "(REF: 61 and 5)". -/
theorem test_window_width : windowWidth Config.ref = 61 ∧ windowWidth { Config.ref with combine := .low8 } = 5 := by decide
theorem test_run_over : RunOver State.reset := by decide
theorem test_schedule : untornSchedule [1, 3] = [0, 1, 0, 3] := by decide
theorem test_sample_gaps : sampleGaps .hiFirst [(1, 2), (3, 4), (5, 6)] = [5, 9] ∧
    sampleGaps .loFirst [(1, 2), (3, 4), (5, 6)] = [3, 7] := by decide
/-- A sample torn at 255 -> 256 is not clean in mode `NINE`, one torn at 254 -> 255 is (42_frame_scheduler.md R123). -/
theorem test_clean_samples : cleanSamples Config.ref 254 [(1, 0)] = true ∧ cleanSamples Config.ref 255 [(1, 0)] = false ∧
    cleanSamples { Config.ref with combine := .low8 } 255 [(1, 0)] = true := by decide

/-! ### Witnesses: for each obligation with hypotheses, a state and operands that meet them, clause by clause -/

/-- Busy with the command of operation number `op` at phase `ph`, under REF. -/
def busyAt (op : BitVec 4) (ph : Phase) : State := { quiet with op := op, busy := true, ph := ph }

/-- A small frame, in which two frames are few samples. -/
def small : Config := { Config.ref with lines := 3, tBlank := 2, tLate := 1, tLow := 1, vFirst := 1 }

/-- A whole frame between the two writes of an update: each falls in the blanking interval's lines, but of two intervals,
so the device scans out half of it (70_reset_and_hazards.md R167). -/
theorem test_update_over_two_frames : after 2 { quiet with
      cfg := small, host := [0x8600FF00E5], line := 2, sched := [3, 0], hist := [.completed .waitf] }
    (fun t => updateWrites 1 t.hist = [(1, 2), (0, 2)] && inBlank small 2) = true := by decide
theorem test_update_over_two_frames_fails (h : List Event) (e : updateWrites 1 h = [(1, 2), (0, 2)]) :
    ¬ UpdateInOneBlank small 1 h := fun ⟨_, hb⟩ =>
  absurd ((hb (1, 2) (by simp [e])).trans (hb (0, 2) (by simp [e])).symm) (by decide)

/-- An address no cell has. -/
theorem no_cell_at {addr : Addr} (h : cellAt Config.ref addr = none) : ∀ k, cellAddr Config.ref k ≠ addr :=
  fun k e => cellAt_cellAddr_ne_none _ k (e ▸ h)

theorem witness_DecodeOfEncode : (Instr.setb 0xFFFF 7).wellFormed = true := by decide
theorem witness_EncodeOfDecode : decode 0x87FFFFFFFF = .ok (.sprPos 7 (-1) (-1)) := by decide
theorem witness_DecoderFollowsMatchMaskTable : ∃ row, encTable[2]? = some row ∧ 0x27D0150000 &&& row.mask = row.pattern :=
  ⟨_, rfl, by decide⟩
theorem witness_ReservedWordIsRefused : ConfigWf quiet.cfg ∧ quiet.busy = false ∧
    ({ quiet with host := [0x27D0150001] } : State).host = 0x27D0150001 :: [] ∧
    ∀ row ∈ encTable, (0x27D0150001 : CmdWord) &&& row.mask ≠ row.pattern :=
  ⟨test_ref_wf, by decide⟩
theorem witness_StepRunsTheCommand : ConfigWf quiet.cfg ∧ quiet.busy = false ∧ quiet.host = [] ∧
    decode 0xD000000000 = .ok .waitf ∧ ({ quiet with host := [0xD000000000] } : State).host = 0xD000000000 :: [] ∧
    (busyAt 0xD (.wait .test .s1)).busy = true ∧
    decode (wordOf (busyAt 0xD .idle).op (busyAt 0xD .idle).n (busyAt 0xD .idle).a (busyAt 0xD .idle).b) = .ok .waitf := by
  decide
theorem witness_IllFormedConfigurationIsRefused :
    ¬ ConfigWf ({ quiet with cfg := { Config.ref with lines := 513 } } : State).cfg := by decide
/-- The last address of a span and the first of another, a raster register, and the addresses next to spans; the phases
that the clauses distinguish. -/
theorem witness_AddressOutsideBlockMapIsRefused : ConfigWf quiet.cfg ∧
    (∃ p ∈ spans quiet.cfg, p.1 ≤ (0xD00F : Addr).toNat ∧ (0xD00F : Addr).toNat < p.1 + p.2) ∧
    (∃ p ∈ spans quiet.cfg, p.1 ≤ (0x07F8 : Addr).toNat ∧ (0x07F8 : Addr).toNat < p.1 + p.2) ∧
    (∃ p ∈ spans quiet.cfg, p.1 ≤ (0xD012 : Addr).toNat ∧ (0xD012 : Addr).toNat < p.1 + p.2) ∧
    (∀ p ∈ spans quiet.cfg, ¬ (p.1 ≤ (0xCFFF : Addr).toNat ∧ (0xCFFF : Addr).toNat < p.1 + p.2)) ∧
    (∀ p ∈ spans quiet.cfg, ¬ (p.1 ≤ (0x0800 : Addr).toNat ∧ (0x0800 : Addr).toNat < p.1 + p.2)) ∧
    ((0xD00F : Addr) ≠ quiet.cfg.aRasterHi ∧ (0xD00F : Addr) ≠ quiet.cfg.aRasterLo) ∧ 0xD012 = quiet.cfg.aRasterLo ∧
    quiet.ph ≠ .step 1 ∧ (busyAt 0x2 (.step 1)).ph = .step 1 ∧ 7 < 8 := by
  refine ⟨test_ref_wf, ⟨(0xD000, 16), ?_⟩, ⟨(0x07F8, 8), ?_⟩, ⟨(0xD012, 1), ?_⟩, ?_, ?_, by decide⟩ <;>
    simp [spans, quiet, State.reset, Config.ref]
theorem witness_BusReadReturns : ConfigWf quiet.cfg ∧ (SprCell.x 7).isColour = false ∧ SprCell.mc1.isColour = true ∧
    ∀ k, cellAddr quiet.cfg k ≠ 0xD013 := ⟨by decide, by decide, by decide, no_cell_at (by decide)⟩
theorem witness_BusWriteDoes : ConfigWf quiet.cfg ∧ Memory.Wf quiet.mem ∧ SprCell.y 0 ≠ .ptr 7 ∧
    (0x07FE : Nat) ≠ (sprAddr quiet.cfg (.ptr 7)).toNat ∧ ∀ k, cellAddr quiet.cfg k ≠ 0x0800 :=
  ⟨by decide, by decide, by decide, by decide, no_cell_at (by decide)⟩
/-- The four kinds of address that `RD`, `WR`, `SETB`, `CLRB` and `TSTB` distinguish, in the phases they do. -/
theorem witness_primitives : Memory.Wf quiet.mem ∧ cellAt quiet.cfg 0xD015 = some (.spr .enable) ∧ cellAt quiet.cfg 0xD011 = some .rasterHi ∧
    cellAt quiet.cfg 0xD012 = some .rasterLo ∧ cellAt quiet.cfg 0xFFFF = none ∧
    cellAt (busyAt 0x2 (.step 1)).cfg 0xD00F = some (.spr (.y 7)) ∧ cellAt (busyAt 0x2 (.step 1)).cfg 0xD011 = some .rasterHi ∧
    quiet.ph ≠ .step 1 ∧ (busyAt 0x2 (.step 1)).ph = .step 1 ∧ 0 < 8 ∧ 7 < 8 := by decide
/-- `SPR_EN`, `SPR_MC`, `SPR_POS`, `SPR_CC`, `SPR_COL`, `SPR_BLK`: every phase, and both ends of the operands. -/
theorem witness_sprite_commands : ConfigWf quiet.cfg ∧ Memory.Wf quiet.mem ∧ 0 < 8 ∧ 7 < 8 ∧
    (quiet.ph ≠ .step 1 ∧ quiet.ph ≠ .step 2 ∧ quiet.ph ≠ .step 3) ∧ (busyAt 0x8 (.step 1)).ph = .step 1 ∧
    (busyAt 0x8 (.step 2)).ph = .step 2 ∧ (busyAt 0x8 (.step 3)).ph = .step 3 ∧
    (0 : Half) = (if (0x8000 : Half).slt 0 then 0 else 0x8000) ∧
    (0x7FFF : Half) = (if (0x7FFF : Half).slt 0 then 0 else 0x7FFF) :=
  ⟨test_ref_wf, by decide⟩
theorem witness_BlkAddrDividesByBlockSize :
    ((0 : Addr).toNat ≤ (0x3FFF : Addr).toNat ∧ (0x3FFF : Addr).toNat - (0 : Addr).toNat < 16384) ∧
    16384 ≤ (0x4000 : Addr).toNat - quiet.cfg.bankBase.toNat ∧
    (0x3FFF : Addr).toNat < ({ Config.ref with bankBase := 0x4000 } : Config).bankBase.toNat := by decide
/-- `RLINE` and `WAITF`: both read orders, every phase they distinguish. -/
theorem witness_samples : ConfigWf quiet.cfg ∧ quiet.cfg.readOrder = .hiFirst ∧
    ConfigWf { Config.ref with readOrder := .loFirst } ∧ quiet.ph ≠ .step 1 ∧ (busyAt 0xC (.step 1)).ph = .step 1 ∧
    (busyAt 0xD (.wait .phase1 .s0)).ph = .wait .phase1 .s0 ∧ (busyAt 0xD (.wait .phase2 .s1)).ph = .wait .phase2 .s1 ∧
    (busyAt 0xD (.wait .test .s1)).ph = .wait .test .s1 ∧ (busyAt 0xD (.wait .phase1 .s1)).ph = .wait .phase1 .s1 :=  by
  decide
theorem witness_WaitfFirstRead_other : ∀ u sub, quiet.ph ≠ .wait u sub := nofun
/-- The second read of a sample of `WAITF` in phase 2, just below and at `T_BLANK`. -/
theorem witness_WaitfSecondReadAndCompare :
    after 1 { busyAt 0xD (.wait .phase2 .s1) with line := 250 } (fun t => t.busy && decide (t.l.toNat < 251)) = true ∧
    after 1 { busyAt 0xD (.wait .phase2 .s1) with line := 251 } (fun t => !t.busy && decide (251 ≤ t.l.toNat)) = true := by
  decide
theorem witness_RasterAloneWritesTheLine : 0 < 312 ∧ 312 ≤ 512 ∧ ConfigWf quiet.cfg ∧
    ({ quiet with line := 311 } : State).line.toNat < quiet.cfg.lines ∧ quiet.sched = 0 :: [0, 0, 0] ∧
    State.reset.sched = [] := by decide
theorem witness_exec_next : ∃ t, exec (.wr 0xD015 1) quiet = .next t ∧ storeAddr (.wr 0xD015 1) quiet = some 0xD015 :=
  ⟨_, rfl, rfl⟩
theorem witness_exec_next_load : ∃ t, exec (.rd 0xD011) quiet = .next t ∧ storeAddr (.rd 0xD011) quiet = none ∧
    writesV (.rd 0xD011) = false ∧ samples (.rd 0xD011) = false ∧ writesRes .waitf = false := ⟨_, rfl, rfl, rfl, rfl, rfl⟩
theorem witness_exec_next_waitf : ∃ t, exec .waitf (busyAt 0xD .idle) = .next t := ⟨_, rfl⟩
theorem witness_CombineFormulas : (0x9B : Byte).getLsbD 7 = (0x80 : Byte).getLsbD 7 := by decide
theorem witness_TornSampleTable : (255 : Line).toNat < 312 ∧ (311 : Line).toNat < 312 := by decide
theorem witness_RlineReturnsTheSample : ConfigWf quiet.cfg ∧ quiet.ph ≠ .step 1 ∧ quiet.cfg.combine = .nine :=
  ⟨test_ref_wf, by decide⟩
theorem witness_WaitfCompletesInTheBlankingWindow :
    ∃ t, exec .waitf { busyAt 0xD (.wait .phase2 .s1) with hi := 0x1B, line := 251 } = .next t ∧ t.busy = false ∧
      ConfigWf quiet.cfg ∧ (251 : Line).toNat < quiet.cfg.lines ∧ (0x1B : Byte) = (251 : Line).extractLsb' 8 1 ++ 0x1B#7 :=
  ⟨_, rfl, by decide, by decide, by decide, by decide⟩
theorem witness_LateTestSampleEntersPhaseOne :
    ∃ t, exec .waitf { busyAt 0xD (.wait .test .s1) with hi := 0x1B, line := 251 } = .next t ∧ ConfigWf quiet.cfg ∧
      quiet.cfg.tBlank ≤ t.l.toNat := ⟨_, rfl, by decide, by decide⟩
theorem witness_EightBitSamplePastLine255NeverCompletes :
    ConfigWf { Config.ref with combine := .orlow } ∧ (256 : Line).toNat < Config.ref.lines ∧ 256 ≤ (256 : Line).toNat ∧
      (255 : Line).toNat < 256 := by decide
theorem witness_WaitfHangsWhenRasterStops : ConfigWf quiet.cfg ∧
    ({ quiet with host := [encode .waitf] } : State).host = encode .waitf :: [] ∧ quiet.sched = List.replicate (3 + 1) 0 := by
  decide
/-- Samples with ticks inside and after them, two of them with no tick between. -/
def polls : List (Nat × Nat) := [(0, 1), (0, 0), (1, 0), (0, 1), (0, 1), (0, 0), (1, 1), (0, 1), (0, 0)]
/-- The bound of R170 met with equality (`POLL_MAX = T_LOW = W = 1`), with gaps of no tick and a tick inside a sample; in
mode `NINE`, and in an 8-bit mode with a frame of fewer than 256 lines. -/
theorem witness_WaitfCompletesWithinTwoFrames :
    ∃ s : State, ConfigWf s.cfg ∧ s.line.toNat < s.cfg.lines ∧ s.busy = false ∧ s.host = encode .waitf :: [] ∧
      s.sched = sampleSchedule polls ∧
      2 * s.cfg.lines ≤ (sampleGaps s.cfg.readOrder polls).sum ∧
      (∀ k ∈ sampleGaps s.cfg.readOrder polls, k ≤ 1) ∧
      PollBound s.cfg 1 ∧ PollFitsShortFrame s.cfg 1 ∧
      cleanSamples s.cfg s.line.toNat polls = true :=
  ⟨{ quiet with
      cfg := { small with pollMax := some 1 }, host := [encode .waitf]
      sched := sampleSchedule polls }, by decide⟩
theorem witness_WaitfCompletesWithinTwoFrames_low8 :
    ∃ c : Config, ConfigWf c ∧ c.combine ≠ .nine ∧ c.lines < 256 ∧ PollBound c 1 ∧ PollFitsShortFrame c 1 :=
  ⟨{ small with combine := .low8, pollMax := some 1 }, by decide⟩
theorem witness_PollBoundAloneDoesNotSuffice :
    ∃ s : State, s.busy = false ∧ s.host = encode .waitf :: [] ∧ s.line = 5 ∧
      s.cfg = { Config.ref with tLow := 61, pollMax := some 61 } ∧
      s.sched = sampleSchedule
        (List.replicate (0 + 1) [(0, 61), (0, 61), (0, 61), (0, 61), (0, 6), (1, 61)]).flatten :=
  ⟨{ quiet with
      cfg := { Config.ref with tLow := 61, pollMax := some 61 }, line := 5, host := [encode .waitf]
      sched := sampleSchedule
        (List.replicate (0 + 1) [(0, 61), (0, 61), (0, 61), (0, 61), (0, 6), (1, 61)]).flatten }, rfl, rfl, rfl, rfl, rfl⟩
theorem witness_PollBoundAloneDoesNotSuffice_low8 :
    ∃ s : State, s.busy = false ∧ s.host = encode .waitf :: [] ∧ s.line = 0 ∧
      s.cfg = { Config.ref with
        combine := .low8, lines := 4, tLate := 1, tLow := 2, tBlank := 3, vFirst := 1, pollMax := some 2 } ∧
      s.sched = untornSchedule (List.replicate (2 + 1) 2) :=
  ⟨{ quiet with
      cfg := { Config.ref with
        combine := .low8, lines := 4, tLate := 1, tLow := 2, tBlank := 3, vFirst := 1, pollMax := some 2 }
      line := 0, host := [encode .waitf], sched := untornSchedule (List.replicate (2 + 1) 2) }, rfl, rfl, rfl, rfl, rfl⟩
/-- Accepted at `T_BLANK`; the last sample before the line reaches `T_BLANK` again; in each mode. -/
theorem witness_WaitfNeverCompletesTwiceInAFrame : ∀ mode ∈ [Combine.nine, .orlow, .low8],
    ∃ s : State, ConfigWf s.cfg ∧ s.cfg.combine = mode ∧ s.line.toNat < s.cfg.lines ∧ s.cfg.tBlank ≤ s.line.toNat ∧
      s.busy = false ∧ s.host = encode .waitf :: [] ∧ s.sched = untornSchedule [1, 1, 1] ∧ 2 < 3 ∧
      s.line.toNat + ([1, 1, 1].take 2).sum < s.cfg.lines + s.cfg.tBlank := fun mode h =>
  ⟨{ quiet with
      cfg := { small with combine := mode }, line := 2, host := [encode .waitf], sched := untornSchedule [1, 1, 1] }, by
    simp only [List.mem_cons, List.not_mem_nil, or_false] at h
    rcases h with rfl | rfl | rfl <;> decide⟩
/-- Accepted past the apparent wrap at 256, in an 8-bit mode. -/
theorem witness_WaitfNeverCompletesTwiceInAFrame_past_256 :
    ConfigWf { Config.ref with combine := .low8 } ∧ (300 : Line).toNat < Config.ref.lines ∧
      Config.ref.tBlank ≤ (300 : Line).toNat ∧ (300 : Line).toNat + [1, 1].sum < Config.ref.lines + Config.ref.tBlank := by
  decide
theorem witness_BlankingIntervalLastsUntilScanOut : ConfigWf Config.ref ∧ inBlank Config.ref 250 = false ∧
    inBlank Config.ref 251 = true ∧ inBlank Config.ref 50 = true ∧ 250 < Config.ref.lines ∧ 111 < blankLeft Config.ref 251 ∧
    0 < blankLeft Config.ref 50 := by decide
/-- `SPR_POS` right after the completion at the last line of the interval but three, one tick after each step. -/
theorem witness_UpdateEndingBeforeScanOutIsInOneBlank :
    after 3 { quiet with host := [0x8600FF00E5], line := 48, sched := [1, 1, 1], hist := [.completed .waitf] }
      (fun t => updateWrites 1 t.hist = [(0, 49), (0, 48)]) = true ∧ ConfigWf quiet.cfg ∧
    (48 : Line).toNat < quiet.cfg.lines ∧ 3 ≤ [1, 1, 1].length ∧ ([1, 1, 1].take (3 - 1)).sum < blankLeft quiet.cfg 48 := by
  decide
/-- With no window open, and with the second window open. -/
theorem witness_AcceptedCommandJoinsTheOpenWindow : decode 0xA000020006 = .ok (.sprCc 2 6) ∧
    after 1 { quiet with host := [0xA000020006] } (fun t => beforeFirstWindow t.hist = [.sprCc 2 6]) = true ∧
    gateReturns quiet.hist = 0 ∧
    after 1 { quiet with host := [0xA000020006], hist := [.completed .waitf, .completed .waitf] }
      (fun t => commitWindow 2 t.hist = [.sprCc 2 6] && commitWindow 1 t.hist = []) = true ∧
    gateReturns [.completed .waitf, .completed .waitf] ≠ 0 := by decide
theorem witness_ClampZeroesNegatives : (0x8000 : Half).toInt < 0 ∧ 0 ≤ (0x7FFF : Half).toInt := by decide
theorem witness_SprPosGivesTheDevicePosition : ConfigWf quiet.cfg ∧ quiet.busy = false ∧
    ({ quiet with host := [encode (.sprPos (7 : Slot).toNat 511 256)] } : State).host =
      encode (.sprPos (7 : Slot).toNat 511 256) :: [] ∧
    (511 : Half) = (if (511 : Half).slt 0 then 0 else 511) ∧ (6 : Slot) ≠ 7 :=
  ⟨test_ref_wf, by decide⟩
theorem witness_SprPosIntermediatePositions : (busyAt 0x8 (.step 0)).ph = .step 0 ∧ ConfigWf (busyAt 0x8 (.step 0)).cfg := by
  decide
theorem witness_IndexAboveSevenIsRefused : 8 ≤ 8 := by decide
theorem witness_StepRefusesOnlyWhatTheSpecRefuses :
    [(0xE000000000 : CmdWord), 0x0012340000, 0x10D0120000].all (fun w =>
      decide (Inv { quiet with host := [w] }) && !after 1 { quiet with host := [w] } (fun _ => true)) = true := by decide
theorem witness_EveryCommandButWaitfCompletes : (Instr.setb 0xD015 7).wellFormed = true ∧ Instr.setb 0xD015 7 ≠ .waitf ∧
    OperandMapped quiet.cfg (.setb 0xD015 7) ∧ OperandMapped quiet.cfg (.wr 0x07F8 0) ∧ OperandMapped quiet.cfg (.rd 0xD011) ∧
    OperandMapped quiet.cfg (.tstb 0xD012 0) := by decide
/-- The six rows of 30_encoding.md R84 at slot 7, `flag`, blocks and colours 255 and 1, and position (300, 50). -/
def macroRows (flag : Bool) : List (Nat × Instr × List Instr) :=
  [(2, .sprEn 7 flag, [if flag then .setb 0xD015 7 else .clrb 0xD015 7]),
   (2, .sprMc 7 flag, [if flag then .setb 0xD01C 7 else .clrb 0xD01C 7]),
   (1, .sprBlk 7 255, [.wr 0x07FF 255]), (1, .sprCol 7 255, [.wr 0xD02E 255]),
   (2, .sprCc 255 1, [.wr 0xD025 255, .wr 0xD026 1]),
   (4, .sprPos 7 300 50, [.wr 0xD00E 44, .wr 0xD00F 50, .setb 0xD010 7])]
/-- Each row is the statement's, and command and sequence make the same transactions in the row's number of steps. -/
theorem witness_SpriteCommandsAreMacros : ConfigWf quiet.cfg ∧ quiet.busy = false ∧
    (∀ flag, macroRows flag =
      [(2, Instr.sprEn (7 : Slot).toNat flag,
          [if flag then Instr.setb quiet.cfg.aSprEnable (7 : Slot).toNat else .clrb quiet.cfg.aSprEnable (7 : Slot).toNat]),
       (2, .sprMc (7 : Slot).toNat flag,
          [if flag then .setb quiet.cfg.aSprMcm (7 : Slot).toNat else .clrb quiet.cfg.aSprMcm (7 : Slot).toNat]),
       (1, .sprBlk (7 : Slot).toNat 255, [.wr (quiet.cfg.aPtrBase + (7 : Slot).setWidth 16) 255]),
       (1, .sprCol (7 : Slot).toNat 255, [.wr (quiet.cfg.aSprColorBase + (7 : Slot).setWidth 16) 255]),
       (2, .sprCc 255 1, [.wr quiet.cfg.aSprMc0 255, .wr quiet.cfg.aSprMc1 1]),
       (4, .sprPos (7 : Slot).toNat 300 50,
          [.wr (quiet.cfg.aPosBase + 2 * (7 : Slot).setWidth 16) (posLow (clampNeg 300)),
           .wr (quiet.cfg.aPosBase + 2 * (7 : Slot).setWidth 16 + 1) (posLow (clampNeg 50)),
           if posHigh (clampNeg 300) then .setb quiet.cfg.aXmsb (7 : Slot).toNat
           else .clrb quiet.cfg.aXmsb (7 : Slot).toNat])]) :=
  ⟨test_ref_wf, by decide⟩
theorem test_macro_rows : (macroRows true ++ macroRows false).all (fun r =>
    after r.1 { quiet with host := [encode r.2.1] } fun t =>
      after r.1 { quiet with host := r.2.2.map encode } fun u =>
        trace t = trace u && !(trace t).isEmpty && !t.busy && !u.busy && u.host = []) = true := by decide
/-- A reset state that is not the model's own. -/
theorem witness_ResetStatesMeetTheInvariant :
    IsReset { State.reset with line := 311, sprEnable := 0xFF, res := 0xFFFF, mem := [(0x07FF, 0x55)] } := by decide
/-- In the middle of `SPR_EN 3, 1`. -/
theorem witness_StepKeepsTheInvariant : Inv { busyAt 0x5 (.step 1) with n := 3, b := 1, v := 0x81 } ∧
    after 1 { busyAt 0x5 (.step 1) with n := 3, b := 1, v := 0x81 } (fun t => t.sprEnable = 0x89) = true := by decide

end Sys2Proof.Tests
end

section
/-! SUPPORT. Proofs about the scope of the block (00_scope.md): what a step runs, one bus transaction per SEQ step, which
addresses the primitives refuse, and the completion of every command but `WAITF`. -/

/-! ### The decoder and the encoder -/

namespace Sys2Proof

/-- A format check passes exactly when the must-be-zero fields are zero, and then gives its command. -/
theorem formatted_eq_ok {mbz : Bool} {i j : Instr} : formatted mbz i = .ok j ↔ mbz = true ∧ i = j := by
  cases mbz <;> simp

/-- The decoder reads a command whose operation number is the field `OP` (30_encoding.md R63). -/
theorem opNumber_of_decodeFields {op : BitVec 4} {n : Slot} {a b : Half} {i : Instr}
    (h : decodeFields op n a b = .ok i) : i.opNumber = op := by
  have ofNat_eq : ∀ {k : Nat}, op.toNat = k → BitVec.ofNat 4 k = op := by
    rintro k rfl
    simp
  unfold decodeFields at h
  split at h
  case h_9 hop => cases h; exact ofNat_eq hop
  case h_15 => cases h
  all_goals
    obtain ⟨-, rfl⟩ := formatted_eq_ok.1 h
    exact ofNat_eq (by assumption)

theorem opNumber_of_decode {w : CmdWord} {i : Instr} (h : decode w = .ok i) : i.opNumber = fieldOp w := by
  rw [← wordOf_fields w (fieldZ_of_decode h), decode_wordOf] at h
  exact opNumber_of_decodeFields h

/-- `WAITF` is the command of operation number 0xD. -/
theorem opNumber_eq_waitf_iff (i : Instr) : i.opNumber = 0xD ↔ i = .waitf := by
  cases i <;> simp [Instr.opNumber]

@[simp] theorem highByte_byteField (v : Byte) : highByte (byteField v) = 0 := by
  have := v.isLt
  apply BitVec.eq_of_toNat_eq
  simp only [highByte, byteField, extract_toNat, BitVec.toNat_setWidth, BitVec.reduceToNat]
  omega

@[simp] theorem lowByte_byteField (v : Byte) : lowByte (byteField v) = v := by
  have := v.isLt
  apply BitVec.eq_of_toNat_eq
  simp only [lowByte, byteField, extract_toNat, BitVec.toNat_setWidth]
  omega

theorem flagField_fields (flag : Bool) :
    (flagField flag).extractLsb' 1 15 = 0 ∧ (flagField flag)[0] = flag := by
  cases flag <;> decide

/-- Decoding the word of a well-formed command gives the command back (30_encoding.md R83). -/
theorem decode_encode {i : Instr} (h : i.wellFormed = true) : decode (encode i) = .ok i := by
  cases i
  case setb | clrb | tstb | sprPos =>
    simp [encode, decode_wordOf, decodeFields, Nat.mod_eq_of_lt (of_decide_eq_true h)]
  case sprEn | sprMc =>
    simp [encode, decode_wordOf, decodeFields, flagField_fields, Nat.mod_eq_of_lt (of_decide_eq_true h)]
  case sprBlk | sprCol =>
    simp [encode, decode_wordOf, decodeFields, Nat.mod_eq_of_lt (of_decide_eq_true h)]
  case rd | wr | sprCc | blkAddr | rline | waitf =>
    simp [encode, decode_wordOf, decodeFields]

end Sys2Proof

/-! ### The step -/

namespace Sys2Proof.Machine

/-- A command accepted starts in `W_TEST` if it is `WAITF`, else at its transaction 0 (10_state.md R14). -/
theorem startPhase_of_decode {w : CmdWord} {i : Instr} (h : decode w = .ok i) :
    startPhase (fieldOp w) = if i = .waitf then .wait .test .s0 else .step 0 := by
  simp only [startPhase, ← opNumber_of_decode h, opNumber_eq_waitf_iff]

/-- `step` with nothing to do: only RASTER steps (00_scope.md R6). -/
theorem step_no_command {s : State} (hc : ConfigWf s.cfg) (hb : s.busy = false) (hh : s.host = []) :
    step s = .next (rasterTicks s) := by
  simp [step, if_pos hc, hb, takeCommand, hh, thenTicks_next]

/-- Settles O6: the laws of `step`, and the phase in which `accept` starts the command. -/
theorem stepRunsTheCommand : Obligations.StepRunsTheCommand := by
  unfold Obligations.StepRunsTheCommand
  intro s hc
  refine ⟨fun w rest i hb hh hd => ?_, fun i hb hd => step_busy hc hb hd, step_no_command hc, thenTicks_next,
    fun _ => rfl⟩
  rw [step_idle hc hb hh hd, ← startPhase_of_decode hd]
  rfl

/-! ### What every SEQ step adds to the history, and what it keeps -/

/-- The history gains the transaction of `BusStep`, and in front of it at most the completion. -/
theorem exec_hist {i : Instr} {s t : State} (h : exec i s = .next t) :
    ∃ added, t.hist = added ++ s.hist ∧ (busTrace added).length = if i.opNumber = 0xB then 0 else 1 := by
  obtain ⟨u, hbus, new, ht, hnew, -⟩ := exec_eq_next h
  have hist : t.hist = new ++ u.hist := by rw [ht]
  have hno : busTrace new = [] := by rcases hnew with ⟨rfl, -⟩ | ⟨rfl, -⟩ <;> rfl
  have hone : ∀ e : Event, e.isBus = true → u.hist = e :: s.hist → i.opNumber ≠ 0xB →
      ∃ added, t.hist = added ++ s.hist ∧ (busTrace added).length = if i.opNumber = 0xB then 0 else 1 := by
    intro e he hu hop
    refine ⟨new ++ [e], by rw [hist, hu, List.append_assoc]; rfl, ?_⟩
    rw [if_neg hop, busTrace, List.filter_append, ← busTrace, hno]
    simp [he]
  rcases hbus with ⟨hop, -, rfl⟩ | ⟨hop, -, addr, k, -, rfl⟩ | ⟨hop, addr, k, d, -, -, rfl⟩
  · exact ⟨new, hist, by rw [hno, if_pos hop]; rfl⟩
  · exact hone _ rfl rfl hop
  · exact hone (.bus .write addr d s.line s.frame) rfl (by simp [afterWrite]) hop

/-- Settles O49, by what one SEQ step adds to the history. -/
theorem oneTransactionPerStep : Obligations.OneTransactionPerStep := by
  unfold Obligations.OneTransactionPerStep
  exact fun i s t h => exec_hist h

/-- No SEQ step writes the configuration, the line, the frame number, HOST's words, the schedule or the latches. -/
theorem exec_frame {i : Instr} {s t : State} (h : exec i s = .next t) :
    t.cfg = s.cfg ∧ t.line = s.line ∧ t.frame = s.frame ∧ t.host = s.host ∧ t.sched = s.sched ∧
      t.op = s.op ∧ t.n = s.n ∧ t.a = s.a ∧ t.b = s.b := by
  obtain ⟨u, hbus, new, ht, -⟩ := exec_eq_next h
  rw [ht]
  rcases hbus with ⟨-, -, rfl⟩ | ⟨-, -, addr, k, -, rfl⟩ | ⟨-, addr, k, d, -, -, rfl⟩
  · simp
  · simp [afterRead]
  · simp [afterWrite]

/-! ### Which addresses a transaction may use -/

/-- An address lies at an offset below `n` of an array that does not wrap if it lies in the array's span. -/
theorem offsetFrom_lt {base addr : Addr} {n : Nat} (hl : base.toNat ≤ addr.toNat) (hu : addr.toNat < base.toNat + n) :
    (offsetFrom base addr).toNat < n := by
  have := addr.isLt
  simp only [offsetFrom, BitVec.toNat_sub]
  omega

/-- The pointer block's base does not wrap. -/
theorem aPtrBase_toNat {c : Config} (h : MapWf c) : c.aPtrBase.toNat = c.screenBase.toNat + c.ptrOffset.toNat := by
  have hb := h.2 (c.screenBase.toNat + c.ptrOffset.toNat, 8) (by simp [spans])
  simp only [Config.aPtrBase, BitVec.toNat_add]
  omega

/-- An address in a span of the block map is the address of a cell. -/
theorem exists_cellAddr_of_mem_spans {c : Config} (h : MapWf c) {addr : Addr} {p : Nat × Nat} (hp : p ∈ spans c)
    (hl : p.1 ≤ addr.toNat) (hu : addr.toNat < p.1 + p.2) : ∃ k, cellAddr c k = addr := by
  have one : ∀ k, p = ((cellAddr c k).toNat, 1) → ∃ k, cellAddr c k = addr := by
    rintro k rfl
    exact ⟨k, BitVec.eq_of_toNat_eq (by omega)⟩
  have array : ∀ base : Addr, p = (base.toNat, 8) → ∃ n, eaIndexed base n = addr := by
    rintro base rfl
    exact ⟨_, eaIndexed_slotOf (BitVec.lt_def.2 (offsetFrom_lt hl hu))⟩
  simp only [spans, List.mem_cons, List.not_mem_nil, or_false] at hp
  rcases hp with rfl | e | e | e | e | e | e | e | e | e
  · have hpos := eaPos_slotOf (BitVec.lt_def.2 (offsetFrom_lt hl hu))
    split at hpos
    · exact ⟨.spr (.y _), hpos⟩
    · exact ⟨.spr (.x _), hpos⟩
  · exact one (.spr .xmsb) e
  · exact one .rasterHi e
  · exact one .rasterLo e
  · exact one (.spr .enable) e
  · exact one (.spr .mcm) e
  · exact one (.spr .mc0) e
  · exact one (.spr .mc1) e
  · obtain ⟨n, hn⟩ := array c.aSprColorBase e
    exact ⟨.spr (.color n), hn⟩
  · obtain ⟨n, hn⟩ := array c.aPtrBase (by rw [e, aPtrBase_toNat h])
    exact ⟨.spr (.ptr n), hn⟩

/-- The addresses of cells are those in the spans of the block map (20_memory.md R46). -/
theorem cellAt_isSome_iff {c : Config} (h : MapWf c) (addr : Addr) :
    (cellAt c addr).isSome ↔ ∃ p ∈ spans c, p.1 ≤ addr.toNat ∧ addr.toNat < p.1 + p.2 := by
  constructor
  · intro hs
    obtain ⟨k, hk⟩ := Option.isSome_iff_exists.1 hs
    obtain ⟨p, hp, ha, hl⟩ := cellAddr_toNat h k
    rw [cellAddr_of_cellAt hk] at ha
    exact ⟨p, List.mem_of_getElem? hp, by omega, by omega⟩
  · rintro ⟨p, hp, hl, hu⟩
    obtain ⟨k, rfl⟩ := exists_cellAddr_of_mem_spans h hp hl hu
    exact Option.isSome_iff_ne_none.2 (cellAt_cellAddr_ne_none c k)

theorem cellAt_eq_some_iff {c : Config} (h : MapWf c) {addr : Addr} {k : Cell} :
    cellAt c addr = some k ↔ addr = cellAddr c k :=
  ⟨fun hk => (cellAddr_of_cellAt hk).symm, fun e => e ▸ cellAt_cellAddr h k⟩

/-- A cell that is no raster register is a storage cell. -/
theorem cellAt_eq_spr {c : Config} {addr : Addr}
    (h : (cellAt c addr).isSome ∧ cellAt c addr ≠ some .rasterHi ∧ cellAt c addr ≠ some .rasterLo) :
    ∃ k, cellAt c addr = some (.spr k) := by
  obtain ⟨hs, hhi, hlo⟩ := h
  obtain ⟨k, hk⟩ := Option.isSome_iff_exists.1 hs
  cases k with
  | spr k => exact ⟨k, hk⟩
  | rasterHi => exact absurd hk hhi
  | rasterLo => exact absurd hk hlo

/-- A bus read of a cell answers a next state. -/
theorem withRead_isNext {addr : Addr} {s : State} (h : (cellAt s.cfg addr).isSome) (next : Byte → State → State) :
    ∃ t, withRead addr s next = .next t := by
  obtain ⟨k, hk⟩ := Option.isSome_iff_exists.1 h
  exact ⟨_, withRead_of_cellAt hk next⟩

/-- The reading step of a read-modify-write of a cell answers a next state. -/
theorem readModifyWrite_read_isNext {i : Instr} {addr : Addr} {modify : Byte → Byte} {s : State}
    (h : (cellAt s.cfg addr).isSome) (hp : s.ph ≠ .step 1) : ∃ t, readModifyWrite i addr modify s = .next t := by
  rw [readModifyWrite_read hp]
  exact withRead_isNext h _

/-- Each step of a read-modify-write of a storage cell answers a next state. -/
theorem readModifyWrite_isNext {i : Instr} {addr : Addr} {modify : Byte → Byte} {s : State} {k : SprCell}
    (h : cellAt s.cfg addr = some (.spr k)) : ∃ t, readModifyWrite i addr modify s = .next t := by
  by_cases hp : s.ph = .step 1
  · exact ⟨_, by rw [readModifyWrite_write hp, withWrite_of_cellAt h]⟩
  · exact readModifyWrite_read_isNext (by simp [h]) hp

/-- The write-back of a read-modify-write at a raster register is refused (10_state.md R31). -/
theorem readModifyWrite_of_raster {i : Instr} {addr : Addr} {modify : Byte → Byte} {s : State}
    (h : cellAt s.cfg addr = some .rasterHi ∨ cellAt s.cfg addr = some .rasterLo) (hp : s.ph = .step 1) :
    readModifyWrite i addr modify s = .refused (.rasterWrite addr) := by
  rw [readModifyWrite_write hp, withWrite_of_raster h]

/-- Each step of a read-modify-write outside the block map is refused (00_scope.md R8). -/
theorem readModifyWrite_of_unmapped {i : Instr} {addr : Addr} {modify : Byte → Byte} {s : State}
    (h : cellAt s.cfg addr = none) : readModifyWrite i addr modify s = .refused (.outsideBlockMap addr) := by
  by_cases hp : s.ph = .step 1
  · rw [readModifyWrite_write hp, withWrite_of_unmapped h]
  · rw [readModifyWrite_read hp, withRead_of_unmapped h]

/-- Settles O8: an address is in a span exactly when `cellAt` finds a cell, which decides every bus transaction. -/
theorem addressOutsideBlockMapIsRefused : Obligations.AddressOutsideBlockMapIsRefused := by
  unfold Obligations.AddressOutsideBlockMapIsRefused
  rintro s addr ⟨hm, -, -⟩
  have hiff := cellAt_isSome_iff hm addr
  constructor
  · intro hin
    have hsome := hiff.2 hin
    refine ⟨withRead_isNext hsome _, fun bit hb => ⟨?_, fun hp => ⟨?_, ?_⟩⟩, fun ⟨hhi, hlo⟩ => ?_, fun hr => ?_⟩
    · exact exec_tstb hb addr s ▸ withRead_isNext hsome _
    · exact exec_setb hb addr s ▸ readModifyWrite_read_isNext hsome hp
    · exact exec_clrb hb addr s ▸ readModifyWrite_read_isNext hsome hp
    · obtain ⟨k, hk⟩ := cellAt_eq_spr
        ⟨hsome, fun e => hhi ((cellAt_eq_some_iff hm).1 e), fun e => hlo ((cellAt_eq_some_iff hm).1 e)⟩
      exact ⟨fun value => ⟨_, withWrite_of_cellAt hk value _⟩, fun bit hb =>
        ⟨exec_setb hb addr s ▸ readModifyWrite_isNext hk, exec_clrb hb addr s ▸ readModifyWrite_isNext hk⟩⟩
    · have hraster : cellAt s.cfg addr = some .rasterHi ∨ cellAt s.cfg addr = some .rasterLo :=
        hr.imp (cellAt_eq_some_iff hm).2 (cellAt_eq_some_iff hm).2
      exact ⟨fun value => withWrite_of_raster hraster value _, fun bit hb hp =>
        ⟨exec_setb hb addr s ▸ readModifyWrite_of_raster hraster hp,
          exec_clrb hb addr s ▸ readModifyWrite_of_raster hraster hp⟩⟩
  · intro hout
    have hnone : cellAt s.cfg addr = none := by
      rw [← Option.not_isSome_iff_eq_none, hiff]
      exact fun ⟨p, hp, hin⟩ => hout p hp hin
    exact ⟨withRead_of_unmapped hnone _, fun value => withWrite_of_unmapped hnone value _, fun bit hb =>
      ⟨exec_setb hb addr s ▸ readModifyWrite_of_unmapped hnone, exec_clrb hb addr s ▸ readModifyWrite_of_unmapped hnone,
        exec_tstb hb addr s ▸ withRead_of_unmapped hnone _⟩⟩

/-! ### Whole commands -/

/-- How the SEQ step `k` of a straight-line command leaves the sequencer: at step `k + 1`, or, after its last step,
idle with the completion recorded (10_state.md R13, R14). -/
def StepDone (i : Instr) (k : Nat) (t : State) : Prop :=
  if k + 1 < seqSteps i then t.busy = true ∧ t.ph = .step (k + 1)
  else t.busy = false ∧ t.ph = .idle ∧ t.hist.head? = some (.completed i)

theorem stepDone_goto {i : Instr} {k : Nat} (h : k + 1 < seqSteps i) (u : State) : StepDone i k (goto (k + 1) u) := by
  rw [StepDone, if_pos h]
  exact ⟨rfl, rfl⟩

theorem stepDone_complete {i : Instr} {k : Nat} (h : seqSteps i = k + 1) (u : State) :
    StepDone i k (complete i u) := by
  rw [StepDone, if_neg (by omega)]
  exact ⟨rfl, rfl, rfl⟩

theorem stepDone_rasterTicks (i : Instr) (k : Nat) (t : State) : StepDone i k (rasterTicks t) ↔ StepDone i k t := by
  simp [StepDone]

/-- The two steps of a read-modify-write of a storage cell. -/
theorem readModifyWrite_stepDone {i : Instr} {addr : Addr} {modify : Byte → Byte} {s : State} {k : Nat} {c : SprCell}
    (hi : seqSteps i = 2) (hp : s.ph = .step k) (hk : k < seqSteps i) (hc : cellAt s.cfg addr = some (.spr c)) :
    ∃ t, readModifyWrite i addr modify s = .next t ∧ StepDone i k t := by
  match k, (hi ▸ hk : k < 2) with
  | 0, _ =>
    rw [readModifyWrite_read (by simp [hp]), withRead_of_cellAt hc]
    exact ⟨_, rfl, stepDone_goto (by omega) _⟩
  | 1, _ =>
    rw [readModifyWrite_write hp, withWrite_of_cellAt hc]
    exact ⟨_, rfl, stepDone_complete hi _⟩

/-- Each SEQ step of a straight-line command whose operands are in range answers a next state, and leads to the
command's next step or completes it. -/
theorem exec_stepDone {i : Instr} {s : State} {k : Nat} (hm : MapWf s.cfg) (hw : i.wellFormed = true)
    (hne : i ≠ .waitf) (ho : OperandMapped s.cfg i) (hp : s.ph = .step k) (hk : k < seqSteps i) :
    ∃ t, exec i s = .next t ∧ StepDone i k t := by
  cases i with
  | rd addr =>
    obtain rfl : k = 0 := Nat.lt_one_iff.1 hk
    obtain ⟨c, hc⟩ := Option.isSome_iff_exists.1 ho
    exact ⟨_, withRead_of_cellAt hc _, stepDone_complete rfl _⟩
  | wr addr value =>
    obtain rfl : k = 0 := Nat.lt_one_iff.1 hk
    obtain ⟨c, hc⟩ := cellAt_eq_spr ho
    exact ⟨_, withWrite_of_cellAt hc value _, stepDone_complete rfl _⟩
  | setb addr bit =>
    obtain ⟨c, hc⟩ := cellAt_eq_spr ho
    rw [exec_setb (of_decide_eq_true hw)]
    exact readModifyWrite_stepDone rfl hp hk hc
  | clrb addr bit =>
    obtain ⟨c, hc⟩ := cellAt_eq_spr ho
    rw [exec_clrb (of_decide_eq_true hw)]
    exact readModifyWrite_stepDone rfl hp hk hc
  | tstb addr bit =>
    obtain rfl : k = 0 := Nat.lt_one_iff.1 hk
    obtain ⟨c, hc⟩ := Option.isSome_iff_exists.1 ho
    rw [exec_tstb (of_decide_eq_true hw), withRead_of_cellAt hc]
    exact ⟨_, rfl, stepDone_complete rfl _⟩
  | sprEn n flag =>
    rw [exec_sprEn (of_decide_eq_true hw)]
    exact readModifyWrite_stepDone rfl hp hk (cellAt_enable hm)
  | sprMc n flag =>
    rw [exec_sprMc (of_decide_eq_true hw)]
    exact readModifyWrite_stepDone rfl hp hk (cellAt_mcm hm)
  | sprBlk n block =>
    obtain rfl : k = 0 := Nat.lt_one_iff.1 hk
    rw [exec_sprBlk (of_decide_eq_true hw), withWrite_of_cellAt (cellAt_eaPtr hm _)]
    exact ⟨_, rfl, stepDone_complete rfl _⟩
  | sprPos n x y =>
    rw [exec_sprPos (of_decide_eq_true hw), hp]
    match k, (hk : k < 4) with
    | 0, _ => exact ⟨_, withWrite_of_cellAt (cellAt_eaPosX hm _) _ _, stepDone_goto (by decide : 1 < 4) _⟩
    | 1, _ => exact ⟨_, withWrite_of_cellAt (cellAt_eaPosY hm _) _ _, stepDone_goto (by decide : 2 < 4) _⟩
    | 2, _ => exact ⟨_, withRead_of_cellAt (cellAt_xmsb hm) _, stepDone_goto (by decide : 3 < 4) _⟩
    | 3, _ => exact ⟨_, withWrite_of_cellAt (cellAt_xmsb hm) _ _, stepDone_complete rfl _⟩
  | sprCol n colour =>
    obtain rfl : k = 0 := Nat.lt_one_iff.1 hk
    rw [exec_sprCol (of_decide_eq_true hw), withWrite_of_cellAt (cellAt_eaColor hm _)]
    exact ⟨_, rfl, stepDone_complete rfl _⟩
  | sprCc ca cb =>
    match k, (hk : k < 2) with
    | 0, _ =>
      rw [exec_sprCc_first (by simp [hp]), withWrite_of_cellAt (cellAt_mc0 hm)]
      exact ⟨_, rfl, stepDone_goto (by decide : 1 < 2) _⟩
    | 1, _ =>
      rw [exec_sprCc_second hp, withWrite_of_cellAt (cellAt_mc1 hm)]
      exact ⟨_, rfl, stepDone_complete rfl _⟩
  | blkAddr pointer =>
    obtain rfl : k = 0 := Nat.lt_one_iff.1 hk
    exact ⟨_, rfl, stepDone_complete rfl _⟩
  | rline =>
    match k, (hk : k < 2) with
    | 0, _ => exact ⟨_, exec_rline_first (by simp [hp]) hm, stepDone_goto (by decide : 1 < 2) _⟩
    | 1, _ => exact ⟨_, exec_rline_second hp hm, stepDone_complete rfl _⟩
  | waitf => exact absurd rfl hne

/-- The bus transactions of one SEQ step (20_memory.md R44). -/
theorem exec_busTrace_length {i : Instr} {s t : State} (h : exec i s = .next t) :
    (busTrace t.hist).length = (busTrace s.hist).length + if i.opNumber = 0xB then 0 else 1 := by
  obtain ⟨new, hist, hlen⟩ := exec_hist h
  rw [hist, busTrace, List.filter_append, List.length_append, ← hlen, Nat.add_comm]
  rfl

/-- A straight-line command makes one transaction per SEQ step, `BLK_ADDR` none. -/
theorem transactions_eq {i : Instr} (hne : i ≠ .waitf) :
    transactions i = if i.opNumber = 0xB then 0 else seqSteps i := by
  cases i
  case waitf => exact absurd rfl hne
  all_goals rfl

theorem exists_seqSteps_eq_succ (i : Instr) : ∃ m, seqSteps i = m + 1 :=
  Nat.exists_eq_add_one.2 (Nat.le_max_left 1 (transactions i))

/-- The block is busy with command `i`, about to make its SEQ step `k`. -/
def InProgress (i : Instr) (k : Nat) (s : State) : Prop :=
  s.busy = true ∧ s.ph = .step k ∧ decode (latchedWord s) = .ok i

/-- A step while a straight-line command is in progress: its SEQ step `k`, which answers a next state. -/
theorem step_inProgress {i : Instr} {s : State} {k : Nat} (hs : InProgress i k s) (hc : ConfigWf s.cfg)
    (hw : i.wellFormed = true) (hne : i ≠ .waitf) (ho : OperandMapped s.cfg i) (hk : k < seqSteps i) :
    ∃ t, step s = .next t ∧ t.cfg = s.cfg ∧ t.host = s.host ∧ decode (latchedWord t) = .ok i ∧ StepDone i k t ∧
      (busTrace t.hist).length = (busTrace s.hist).length + if i.opNumber = 0xB then 0 else 1 := by
  obtain ⟨hb, hp, hd⟩ := hs
  obtain ⟨t, ht, hdone⟩ := exec_stepDone hc.1 hw hne ho hp hk
  obtain ⟨hcfg, -, -, hhost, -, hop, hn, ha, hbl⟩ := exec_frame ht
  refine ⟨rasterTicks t, by rw [step_busy hc hb hd, ht, thenTicks_next], by simpa using hcfg, by simpa using hhost,
    ?_, (stepDone_rasterTicks i k t).2 hdone, by simpa using exec_busTrace_length ht⟩
  simpa [latchedWord, hop, hn, ha, hbl] using hd

/-- A command in progress with `m + 1` SEQ steps to go completes in as many steps. -/
theorem run_inProgress {i : Instr} (hw : i.wellFormed = true) (hne : i ≠ .waitf) (m : Nat) :
    ∀ (k : Nat) (s : State), InProgress i k s → ConfigWf s.cfg → OperandMapped s.cfg i → k + (m + 1) = seqSteps i →
      ∃ t, Host.Core.run Sys2Proof.core (m + 1) s = .next t ∧ t.busy = false ∧ t.ph = .idle ∧ t.host = s.host ∧
        t.hist.head? = some (.completed i) ∧
        (busTrace t.hist).length = (busTrace s.hist).length + if i.opNumber = 0xB then 0 else m + 1 := by
  induction m with
  | zero =>
    intro k s hs hc ho hk
    obtain ⟨t, ht, -, hhost, -, hdone, hlen⟩ := step_inProgress hs hc hw hne ho (by omega)
    rw [StepDone, if_neg (by omega)] at hdone
    obtain ⟨hbusy, hph, hlast⟩ := hdone
    exact ⟨t, run_of_step ht 0, hbusy, hph, hhost, hlast, hlen⟩
  | succ m ih =>
    intro k s hs hc ho hk
    obtain ⟨t, ht, hcfg, hhost, hlatch, hdone, hlen⟩ := step_inProgress hs hc hw hne ho (by omega)
    rw [StepDone, if_pos (by omega)] at hdone
    obtain ⟨hbusy, hph⟩ := hdone
    have hgo : InProgress i (k + 1) t := ⟨hbusy, hph, hlatch⟩
    obtain ⟨u, hrun, hu, hpu, hh, hlast, hcount⟩ := ih (k + 1) t hgo (hcfg.symm ▸ hc) (hcfg.symm ▸ ho) (by omega)
    refine ⟨u, (run_of_step ht (m + 1)).trans hrun, hu, hpu, hh.trans hhost, hlast, ?_⟩
    rw [hcount, hlen]
    split <;> omega

/-- The step that accepts a word is the step of the command in progress from the state `accept` makes (log 9). -/
theorem step_accept {s : State} {w : CmdWord} {rest : List CmdWord} {i : Instr} (hc : ConfigWf s.cfg)
    (hb : s.busy = false) (hh : s.host = w :: rest) (hd : decode w = .ok i) : step s = step (accept w i rest s) := by
  have hlatch : decode (latchedWord (accept w i rest s)) = .ok i := by rw [latchedWord_accept hd, hd]
  exact (step_idle hc hb hh hd).trans (step_busy (s := accept w i rest s) hc rfl hlatch).symm

/-- States with the same next step have the same runs of one step or more. -/
theorem run_congr {s s' : State} (h : step s = step s') (k : Nat) :
    Host.Core.run Sys2Proof.core (k + 1) s = Host.Core.run Sys2Proof.core (k + 1) s' := by
  simp only [Host.Core.run]
  rw [show Sys2Proof.core.step s = Sys2Proof.core.step s' from h]

/-- Settles O51: the word is accepted into a command in progress at its step 0, and that command runs to its end. -/
theorem everyCommandButWaitfCompletes : Obligations.EveryCommandButWaitfCompletes := by
  unfold Obligations.EveryCommandButWaitfCompletes
  intro s i rest hc hb hh hw hne ho
  have hd := decode_encode hw
  obtain ⟨m, hm⟩ := exists_seqSteps_eq_succ i
  have hgo : InProgress i 0 (accept (encode i) i rest s) :=
    ⟨rfl, by simp [startPhase_of_decode hd, hne], by rw [latchedWord_accept hd, hd]⟩
  obtain ⟨t, hrun, hbusy, hph, hhost, hlast, hlen⟩ := run_inProgress hw hne m 0 _ hgo hc ho (by rw [hm, Nat.zero_add])
  refine ⟨t, ?_, hbusy, hph, hhost, hlast, ?_⟩
  · rw [hm, run_congr (step_accept hc hb hh hd), hrun]
  · rw [transactions_eq hne, hm, hlen]
    rfl

end Sys2Proof.Machine

end

section
/-! SUPPORT. Proofs about the state (10_state.md): what a bus read returns and a bus write does, the frame of every
command, the reset states, and the invariant that every step keeps. -/

namespace Sys2Proof.Machine

/-! ### Bus transactions by the cell they name -/

/-- An address that is no cell's is outside the block map (20_memory.md R46). -/
theorem cellAt_eq_none {c : Config} {addr : Addr} (h : ∀ k, cellAddr c k ≠ addr) : cellAt c addr = none :=
  Option.eq_none_iff_forall_ne_some.2 fun k hk => h k (cellAddr_of_cellAt hk)

/-- The cell at a storage cell's address is that cell. -/
theorem cellAt_sprAddr {c : Config} (hm : MapWf c) (k : SprCell) : cellAt c (sprAddr c k) = some (.spr k) :=
  cellAt_cellAddr hm (.spr k)

theorem memRead_of_cellAt {addr : Addr} {s : State} {k : Cell} (h : cellAt s.cfg addr = some k) :
    memRead addr s = .ok (readCell s k, afterRead addr k s) := by
  simp only [memRead, h]
  rfl

theorem memRead_of_unmapped {addr : Addr} {s : State} (h : cellAt s.cfg addr = none) :
    memRead addr s = .error (.outsideBlockMap addr) := by
  simp only [memRead, h]

theorem memWrite_of_cellAt {addr : Addr} {s : State} {k : SprCell} (h : cellAt s.cfg addr = some (.spr k)) (d : Byte) :
    memWrite addr d s = .ok (afterWrite addr k d s) := by
  simp only [memWrite, h]
  rfl

theorem memWrite_of_unmapped {addr : Addr} {s : State} (h : cellAt s.cfg addr = none) (d : Byte) :
    memWrite addr d s = .error (.outsideBlockMap addr) := by
  simp only [memWrite, h]

theorem memWrite_of_raster {addr : Addr} {s : State}
    (h : cellAt s.cfg addr = some .rasterHi ∨ cellAt s.cfg addr = some .rasterLo) (d : Byte) :
    memWrite addr d s = .error (.rasterWrite addr) := by
  rcases h with h | h <;> simp only [memWrite, h]

/-- A read of a storage cell: the byte of 10_state.md R30, one draw if it is a colour, and the transaction. -/
theorem memRead_spr {s : State} (hm : MapWf s.cfg) (k : SprCell) :
    memRead (sprAddr s.cfg k) s = .ok (readSpr s k,
      { s with
        draws := s.draws + drawsOfRead (.spr k)
        hist := .bus .read (sprAddr s.cfg k) (readSpr s k) s.line s.frame :: s.hist }) :=
  memRead_of_cellAt (cellAt_sprAddr hm k)

/-- Settles O9: the cell at the address decides the read, and whether it is a colour decides the byte. -/
theorem busReadReturns : Obligations.BusReadReturns := by
  unfold Obligations.BusReadReturns
  rintro s ⟨hm, -, -⟩
  refine ⟨memRead_of_cellAt (cellAt_rasterLo hm), ⟨Config.freeCtrlHi s.draws, memRead_of_cellAt (cellAt_rasterHi hm)⟩,
    fun k hk => ?_, fun k hk => ⟨Config.freeNibble s.draws, ?_⟩,
    fun addr hno => memRead_of_unmapped (cellAt_eq_none hno)⟩
  · simpa [readSpr, drawsOfRead, hk] using memRead_spr hm k
  · simpa [readSpr, drawsOfRead, hk] using memRead_spr hm k

/-- A write to a storage cell leaves everything but the cells and memory alone (10_state.md R35). -/
theorem setCell_eq_cells (s : State) (k : SprCell) (d : Byte) :
    setCell s k d = { s with
      sprX := (setCell s k d).sprX, sprY := (setCell s k d).sprY, sprColor := (setCell s k d).sprColor
      sprEnable := (setCell s k d).sprEnable, sprMcm := (setCell s k d).sprMcm
      sprXmsb := (setCell s k d).sprXmsb, sprMc0 := (setCell s k d).sprMc0, sprMc1 := (setCell s k d).sprMc1
      mem := (setCell s k d).mem } := by
  cases k <;> rfl

/-- A write to a storage cell, with the transaction it records. -/
theorem memWrite_spr {s : State} (hm : MapWf s.cfg) (k : SprCell) (d : Byte) :
    memWrite (sprAddr s.cfg k) d s =
      .ok { setCell s k d with hist := .bus .write (sprAddr s.cfg k) d s.line s.frame :: s.hist } := by
  rw [memWrite_of_cellAt (cellAt_sprAddr hm k)]
  simp only [afterWrite, record, setCell_line, setCell_frame, setCell_hist]

/-- Settles O10: the cell at the address decides the write. -/
theorem busWriteDoes : Obligations.BusWriteDoes := by
  unfold Obligations.BusWriteDoes
  rintro s d ⟨hm, -, -⟩ hwf
  refine ⟨fun k => ⟨memWrite_spr hm k d, getCell_setCell_same hwf k d, fun j hj => getCell_setCell_other s d hj,
    fun m hne => read_mem_setCell s d hne, setCell_eq_cells s k d⟩, ?_, ?_,
    fun addr hno => memWrite_of_unmapped (cellAt_eq_none hno) d⟩
  · exact memWrite_of_raster (.inl (cellAt_rasterHi hm)) d
  · exact memWrite_of_raster (.inr (cellAt_rasterLo hm)) d

/-! ### The frame of every command -/

/-- Settles O45, by the frame of one SEQ step. -/
theorem execFrameOfConstants : Obligations.ExecFrameOfConstants := by
  unfold Obligations.ExecFrameOfConstants
  exact fun i s t h => exec_frame h

/-- Settles O46: after its bus transaction a command writes no register outside its list. -/
theorem execFrameOfRegisters : Obligations.ExecFrameOfRegisters := by
  unfold Obligations.ExecFrameOfRegisters
  intro i s t h
  obtain ⟨u, -, new, -, -, hres, hv, hsample⟩ := exec_eq_next h
  exact ⟨hres, hv, hsample⟩

/-- What follows the bus transaction of a step writes no cell and no memory. -/
theorem AfterBus.cells {i : Instr} {s u t : State} (h : AfterBus i s u t) :
    t.mem = u.mem ∧ ∀ k, getCell t k = getCell u k := by
  obtain ⟨new, ht, -⟩ := h
  rw [ht]
  exact ⟨rfl, fun k => by cases k <;> rfl⟩

/-- A step that stores is a write to one storage cell, the one at the address it computes (10_state.md R31). -/
theorem exec_store {i : Instr} {s t : State} {addr : Addr} (h : exec i s = .next t) (hs : storeAddr i s = some addr) :
    ∃ k d, sprAddr s.cfg k = addr ∧ t.mem = (setCell s k d).mem ∧ ∀ j, getCell t j = getCell (setCell s k d) j := by
  obtain ⟨u, hbus, hafter⟩ := exec_eq_next h
  obtain ⟨hmem, hcell⟩ := hafter.cells
  rcases hbus with ⟨-, hnone, -⟩ | ⟨-, hnone, -⟩ | ⟨-, addr', k, d, hsome, hk, rfl⟩
  · simp [hs] at hnone
  · simp [hs] at hnone
  · obtain rfl : addr = addr' := Option.some.inj (hs ▸ hsome)
    exact ⟨k, d, cellAddr_of_cellAt hk, hmem, fun j => by rw [hcell, afterWrite, getCell_record]⟩

/-- Settles O48: the write of one storage cell leaves the other cells and the other bytes alone. -/
theorem storesChangeOneCell : Obligations.StoresChangeOneCell := by
  unfold Obligations.StoresChangeOneCell
  intro i s t addr _ h hs
  obtain ⟨k, d, rfl, hmem, hcell⟩ := exec_store h hs
  refine ⟨⟨k, rfl⟩, fun j hj => ?_, fun m hne => ?_⟩
  · rw [hcell, getCell_setCell_other s d (fun e => hj (by rw [e]))]
  · rw [hmem, read_mem_setCell s d hne]

/-! ### Reset -/

/-- Settles O53: REF is well-formed, and the memory of `State.reset` is empty. -/
theorem resetIsAResetState : Obligations.ResetIsAResetState := by
  unfold Obligations.ResetIsAResetState
  exact ⟨by decide, rfl, rfl, by decide, Memory.nil_wf, nofun, rfl⟩

/-- Settles O54: an idle state owes nothing about the latches. -/
theorem resetStatesMeetTheInvariant : Obligations.ResetStatesMeetTheInvariant := by
  unfold Obligations.ResetStatesMeetTheInvariant
  rintro s ⟨hc, hbusy, hph, hline, hwf, hblock, -⟩
  exact ⟨hc, hline, hwf, hblock, by simp [hbusy, hph], by simp [hbusy]⟩

/-! ### The invariant -/

/-- No pointer cell's address wraps (00_scope.md section 4). -/
theorem eaPtr_toNat {c : Config} (hm : MapWf c) (n : Slot) : (eaPtr c n).toNat = c.aPtrBase.toNat + n.toNat := by
  have := hm.2 (c.screenBase.toNat + c.ptrOffset.toNat, 8) (by simp [spans])
  have := n.isLt
  simp only [eaPtr, eaIndexed, BitVec.toNat_add, BitVec.toNat_setWidth, aPtrBase_toNat hm]
  omega

/-- A write to a storage cell keeps the listed memory inside the pointer block (10_state.md R23). -/
theorem setCell_memInPtrBlock {s : State} (hm : MapWf s.cfg) (hb : MemInPtrBlock s) (k : SprCell) (d : Byte) :
    MemInPtrBlock (setCell s k d) := by
  cases k
  case ptr n =>
    intro c hc
    rcases Memory.mem_write hc with ⟨rfl, -⟩ | hc
    · have := n.isLt
      have := eaPtr_toNat hm n
      simp only [setCell_cfg]
      omega
    · exact hb c hc
  all_goals exact hb

/-- The bus transaction of a step leaves memory alone or writes one storage cell. -/
theorem BusStep.mem_eq {i : Instr} {s u : State} (h : BusStep i s u) :
    u.mem = s.mem ∨ ∃ k d, u.mem = (setCell s k d).mem := by
  rcases h with ⟨-, -, rfl⟩ | ⟨-, -, addr, k, -, rfl⟩ | ⟨-, addr, k, d, -, -, rfl⟩
  · exact .inl rfl
  · exact .inl rfl
  · exact .inr ⟨k, d, rfl⟩

/-- A SEQ step keeps memory canonical and inside the pointer block (10_state.md R23, R39). -/
theorem exec_keeps_mem {i : Instr} {s t : State} (hm : MapWf s.cfg) (hwf : Memory.Wf s.mem) (hb : MemInPtrBlock s)
    (h : exec i s = .next t) : Memory.Wf t.mem ∧ MemInPtrBlock t := by
  obtain ⟨hcfg, -⟩ := exec_frame h
  obtain ⟨u, hbus, hafter⟩ := exec_eq_next h
  obtain ⟨hmem, -⟩ := hafter.cells
  simp only [MemInPtrBlock, hcfg, hmem]
  rcases hbus.mem_eq with e | ⟨k, d, e⟩
  · rw [e]
    exact ⟨hwf, hb⟩
  · have hin := setCell_memInPtrBlock hm hb k d
    rw [e]
    exact ⟨setCell_mem_wf hwf k d, by simpa only [MemInPtrBlock, setCell_cfg] using hin⟩

/-- A SEQ step leaves the command at one of its phases, or completes it (10_state.md R13, R14). -/
theorem exec_phase {i : Instr} {s t : State} (h : exec i s = .next t) :
    (t.busy = true ∧ t.ph ≠ .idle ∧ phaseFits i t.ph = true) ∨ (t.busy = false ∧ t.ph = .idle) := by
  obtain ⟨u, -, new, -, hnew, -⟩ := exec_eq_next h
  exact hnew.imp (fun ⟨_, hgo⟩ => hgo) (fun ⟨_, hdone⟩ => hdone)

/-- No SEQ step writes the command latches (10_state.md R11). -/
theorem exec_latchedWord {i : Instr} {s t : State} (h : exec i s = .next t) : latchedWord t = latchedWord s := by
  obtain ⟨-, -, -, -, -, hop, hn, ha, hb⟩ := exec_frame h
  rw [latchedWord, hop, hn, ha, hb, latchedWord]

/-- The part of the invariant that does not speak of the sequencer. -/
abbrev DataInv (s : State) : Prop :=
  ConfigWf s.cfg ∧ s.line.toNat < s.cfg.lines ∧ Memory.Wf s.mem ∧ MemInPtrBlock s

/-- A SEQ step of the command in the latches leads to a state that meets the invariant. -/
theorem exec_establishes_inv {i : Instr} {s t : State} (hs : DataInv s) (hd : decode (latchedWord s) = .ok i)
    (h : exec i s = .next t) : Inv t := by
  obtain ⟨hc, hline, hwf, hb⟩ := hs
  obtain ⟨hcfg, hl, -⟩ := exec_frame h
  obtain ⟨hwf', hb'⟩ := exec_keeps_mem hc.1 hwf hb h
  have hin : inCommand t = phaseFits i t.ph := by rw [inCommand, exec_latchedWord h, hd]
  refine ⟨hcfg ▸ hc, by rw [hl, hcfg]; exact hline, hwf', hb', ?_⟩
  rcases exec_phase h with ⟨hbusy, hph, hfit⟩ | ⟨hbusy, hph⟩
  · exact ⟨by simp [hbusy, hph], fun _ => hin.trans hfit⟩
  · exact ⟨by simp [hbusy, hph], by simp [hbusy]⟩

/-- RASTER's ticks keep the invariant: they write only the line, which stays in range (42_frame_scheduler.md R120). -/
theorem rasterTicks_keeps_inv {s : State} (hs : Inv s) : Inv (rasterTicks s) := by
  obtain ⟨hc, hline, hwf, hb, hidle, hcmd⟩ := hs
  refine ⟨by simpa using hc, rasterTicks_line_lt hline, by simpa using hwf, by simpa [MemInPtrBlock] using hb,
    by simpa using hidle, ?_⟩
  simpa [inCommand, latchedWord] using hcmd

/-- The ticks after a SEQ step follow its next state. -/
theorem thenTicks_eq_next {o : Host.Outcome State Fault Refusal} {t : State} (h : thenTicks o = .next t) :
    ∃ u, o = .next u ∧ t = rasterTicks u := by
  cases o with
  | next u => cases h; exact ⟨u, rfl, rfl⟩
  | fault r => cases h
  | refused r => cases h

/-- All a step can do when it answers a next state: with nothing to do, SEQ does nothing; idle, it accepts HOST's
word and runs the first SEQ step; busy, it runs the next SEQ step of the command in the latches. Then RASTER ticks. -/
theorem step_eq_next {s t : State} (h : step s = .next t) :
    ∃ u, t = rasterTicks u ∧
      ((s.busy = false ∧ s.host = [] ∧ u = s) ∨
        (s.busy = false ∧ ∃ w rest i, s.host = w :: rest ∧ decode w = .ok i ∧ exec i (accept w i rest s) = .next u) ∨
        (s.busy = true ∧ ∃ i, decode (latchedWord s) = .ok i ∧ exec i s = .next u)) := by
  have hc : ConfigWf s.cfg := by
    by_contra hc
    simp [step, hc] at h
  rw [step, if_pos hc] at h
  obtain ⟨u, hu, rfl⟩ := thenTicks_eq_next h
  refine ⟨u, rfl, ?_⟩
  cases hb : s.busy with
  | false =>
    simp only [hb, Bool.false_eq_true, if_false, takeCommand] at hu
    split at hu
    · next hh => cases hu; exact .inl ⟨rfl, hh, rfl⟩
    · next w rest hh =>
      split at hu
      · next i hd => exact .inr (.inl ⟨rfl, w, rest, i, hh, hd, hu⟩)
      · cases hu
  | true =>
    simp only [hb, if_true, resume] at hu
    split at hu
    · next i hd => exact .inr (.inr ⟨rfl, i, hd, hu⟩)
    · cases hu

/-- Settles O55: each SEQ step leads to a state that meets the invariant, and RASTER's ticks keep it. -/
theorem stepKeepsTheInvariant : Obligations.StepKeepsTheInvariant := by
  unfold Obligations.StepKeepsTheInvariant
  rintro s t hs h
  have hdata : DataInv s := by
    obtain ⟨hc, hline, hwf, hb, -⟩ := hs
    exact ⟨hc, hline, hwf, hb⟩
  obtain ⟨u, rfl, hu⟩ := step_eq_next h
  apply rasterTicks_keeps_inv
  rcases hu with ⟨-, -, rfl⟩ | ⟨-, w, rest, i, -, hd, hexec⟩ | ⟨-, i, hd, hexec⟩
  · exact hs
  · exact exec_establishes_inv (s := accept w i rest s) hdata (by rw [latchedWord_accept hd, hd]) hexec
  · exact exec_establishes_inv hdata hd hexec

end Sys2Proof.Machine

end

section
/-! SUPPORT. Proofs about memory (20_memory.md): what a step that stores nothing leaves alone. -/

namespace Sys2Proof.Machine

/-- A bus read writes no cell and no memory: it records the transaction and takes the draw (10_state.md R35). -/
theorem afterRead_cells (addr : Addr) (k : Cell) (s : State) :
    (afterRead addr k s).mem = s.mem ∧ ∀ j, getCell (afterRead addr k s) j = getCell s j :=
  ⟨rfl, fun j => by cases j <;> rfl⟩

/-- The transaction of a step that stores nothing is a read, or there is none (20_memory.md R44). -/
theorem BusStep.cells_of_storeAddr_eq_none {i : Instr} {s u : State} (h : BusStep i s u) (hs : storeAddr i s = none) :
    u.mem = s.mem ∧ ∀ k, getCell u k = getCell s k := by
  rcases h with ⟨-, -, rfl⟩ | ⟨-, -, addr, c, -, rfl⟩ | ⟨-, addr, c, d, hsome, -⟩
  · exact ⟨rfl, fun _ => rfl⟩
  · exact afterRead_cells addr c s
  · simp [hs] at hsome

/-- Settles O47: neither the bus transaction of a step that stores nothing nor what follows it writes a cell. -/
theorem loadsLeaveEveryCell : Obligations.LoadsLeaveEveryCell := by
  unfold Obligations.LoadsLeaveEveryCell
  intro i s t h hs
  obtain ⟨u, hbus, hafter⟩ := exec_eq_next h
  obtain ⟨hmem, hcell⟩ := hbus.cells_of_storeAddr_eq_none hs
  obtain ⟨hmem', hcell'⟩ := hafter.cells
  exact ⟨fun k => (hcell' k).trans (hcell k), fun m => by rw [hmem', hmem]⟩

end Sys2Proof.Machine

end

section
/-! SUPPORT. Proofs about the encoding (30_encoding.md): decoder and encoder are inverse to each other, the decoder agrees
with the table of matches and masks, and reserved words are refused. -/

/-! ### Decoding and encoding -/

namespace Sys2Proof

/-- Settles O2: each operand is read back from its field of the word. -/
theorem decodeOfEncode : Obligations.DecodeOfEncode := by
  unfold Obligations.DecodeOfEncode
  exact fun i h => decode_encode h

/-- An operand field whose high byte is zero is the field of its low byte (30_encoding.md R61). -/
theorem byteField_lowByte {h : Half} (hz : highByte h = 0) : byteField (lowByte h) = h := by
  have := h.isLt
  have hz' := congrArg BitVec.toNat hz
  apply BitVec.eq_of_toNat_eq
  simp only [highByte, lowByte, byteField, extract_toNat, BitVec.toNat_setWidth, BitVec.reduceToNat] at hz' ⊢
  omega

/-- An operand field whose bits 15:1 are zero is the field of the flag in bit 0 (30_encoding.md R62). -/
theorem flagField_getElem {h : Half} (hz : h.extractLsb' 1 15 = 0) : flagField h[0] = h := by
  have hz' := congrArg BitVec.toNat hz
  simp only [extract_toNat, BitVec.reduceToNat] at hz'
  have hbit : h.toNat = 0 ∨ h.toNat = 1 := by
    have := h.isLt
    omega
  rcases hbit with e | e
  · obtain rfl : h = 0 := BitVec.eq_of_toNat_eq e
    rfl
  · obtain rfl : h = 1 := BitVec.eq_of_toNat_eq e
    rfl

/-- The fields of a word that decodes are those of the word of its command (30_encoding.md R61, R83). -/
theorem encode_of_decodeFields {op : BitVec 4} {n : Slot} {a b : Half} {i : Instr}
    (h : decodeFields op n a b = .ok i) : encode i = wordOf op n a b ∧ i.wellFormed = true := by
  have hop := opNumber_of_decodeFields h
  have hn : n.toNat < 8 := n.isLt
  unfold decodeFields at h
  split at h
  case h_9 =>
    cases h
    subst hop
    simp [encode, Instr.opNumber, Instr.wellFormed, hn]
  case h_15 => cases h
  all_goals
    obtain ⟨hz, rfl⟩ := formatted_eq_ok.1 h
    subst hop
    simp only [Bool.and_eq_true, beq_iff_eq] at hz
    simp [encode, Instr.opNumber, Instr.wellFormed, hn, hz, byteField_lowByte, flagField_getElem]

/-- Settles O3: a word that decodes is the word of its fields, and its command has the same fields. -/
theorem encodeOfDecode : Obligations.EncodeOfDecode := by
  unfold Obligations.EncodeOfDecode
  intro w i h
  have hw := wordOf_fields w (fieldZ_of_decode h)
  rw [← hw, decode_wordOf] at h
  exact hw ▸ encode_of_decodeFields h

/-- Settles O1: the decoder evaluated on the thirteen words. -/
theorem tableWordsDecode : Obligations.TableWordsDecode := by
  unfold Obligations.TableWordsDecode
  decide

/-! ### The table of matches and masks -/

/-- Two words are equal when their fields are (30_encoding.md R60). -/
theorem eq_iff_fields (v w : CmdWord) :
    v = w ↔ fieldOp v = fieldOp w ∧ fieldZ v = fieldZ w ∧ fieldN v = fieldN w ∧ fieldA v = fieldA w ∧
      fieldB v = fieldB w := by
  refine ⟨fun e => by simp [e], fun ⟨hop, hz, hn, ha, hb⟩ => ?_⟩
  simp only [fieldOp, fieldZ, fieldN, fieldA, fieldB, BitVec.toNat_eq, extract_toNat] at hop hz hn ha hb
  apply BitVec.eq_of_toNat_eq
  omega

/-- A word matches a pattern under a mask when each of its fields does. -/
theorem and_eq_iff_fields (w mask pattern : CmdWord) :
    w &&& mask = pattern ↔
      fieldOp w &&& fieldOp mask = fieldOp pattern ∧ fieldZ w &&& fieldZ mask = fieldZ pattern ∧
      fieldN w &&& fieldN mask = fieldN pattern ∧ fieldA w &&& fieldA mask = fieldA pattern ∧
      fieldB w &&& fieldB mask = fieldB pattern := by
  rw [eq_iff_fields]
  simp only [fieldOp, fieldZ, fieldN, fieldA, fieldB, BitVec.extractLsb'_and]

/-- A mask of the bits from `start` up asks for zeros in the field there. -/
theorem and_eq_zero_iff_extract {h mask : Half} {start len : Nat} (hlen : start + len = 16)
    (hlow : mask.extractLsb' 0 start = 0) (hhigh : mask.extractLsb' start len = BitVec.allOnes len) :
    h &&& mask = 0 ↔ h.extractLsb' start len = 0 := by
  constructor
  · intro e
    have := congrArg (BitVec.extractLsb' start len) e
    simpa [BitVec.extractLsb'_and, hhigh] using this
  · intro e
    apply BitVec.eq_of_getLsbD_eq
    intro k hk
    rw [BitVec.getLsbD_and]
    by_cases hks : k < start
    · have hmask : mask.getLsbD k = false := by simpa [hks] using congrArg (BitVec.getLsbD · k) hlow
      simp [hmask]
    · have hh : h.getLsbD k = false := by
        simpa [show k - start < len by omega, show start + (k - start) = k by omega] using
          congrArg (BitVec.getLsbD · (k - start)) e
      simp [hh]

/-- The mask of bits 15:8 asks for a byte field (30_encoding.md R61). -/
theorem and_highMask_eq_zero_iff (h : Half) : h &&& 0xFF00#16 = 0#16 ↔ highByte h = 0 :=
  and_eq_zero_iff_extract rfl (by decide) (by decide)

/-- The mask of bits 15:1 asks for a flag field (30_encoding.md R62). -/
theorem and_flagMask_eq_zero_iff (h : Half) : h &&& 0xFFFE#16 = 0#16 ↔ h.extractLsb' 1 15 = 0 :=
  and_eq_zero_iff_extract rfl (by decide) (by decide)

/-- A word decodes to the operation `op` when `OP` is `op`, `Z` is 0 and its other fields decode (30_encoding.md R80,
R81). -/
theorem exists_decode_iff (w : CmdWord) (op : BitVec 4) :
    (∃ i, decode w = .ok i ∧ i.opNumber = op) ↔
      fieldOp w = op ∧ fieldZ w = 0 ∧ ∃ i, decodeFields op (fieldN w) (fieldA w) (fieldB w) = .ok i := by
  constructor
  · rintro ⟨i, hd, rfl⟩
    have hz := fieldZ_of_decode hd
    refine ⟨(opNumber_of_decode hd).symm, hz, i, ?_⟩
    rwa [opNumber_of_decode hd, ← decode_wordOf, wordOf_fields w hz]
  · rintro ⟨rfl, hz, i, hd⟩
    refine ⟨i, ?_, opNumber_of_decodeFields hd⟩
    rwa [← decode_wordOf, wordOf_fields w hz] at hd

/-- Every row's mask covers `OP` and `Z`, and its pattern is the operation number in `OP` (30_encoding.md R64). -/
theorem encTable_row {k : Nat} {row : EncRow} (h : encTable[k]? = some row) :
    k < 14 ∧ row.pattern = wordOf (BitVec.ofNat 4 k) 0 0 0 ∧ fieldOp row.mask = 0xF ∧ fieldZ row.mask = 1 := by
  obtain ⟨hk, rfl⟩ := List.getElem?_eq_some_iff.1 h
  replace hk : k < 14 := hk
  revert k
  decide

/-- The must-be-zero fields of the operation `k` are those the mask of row `k` covers (30_encoding.md R61, R64). -/
theorem decodeFields_isOk_iff {k : Nat} {row : EncRow} (h : encTable[k]? = some row) (n : Slot) (a b : Half) :
    (∃ i, decodeFields (BitVec.ofNat 4 k) n a b = .ok i) ↔
      n &&& fieldN row.mask = 0 ∧ a &&& fieldA row.mask = 0 ∧ b &&& fieldB row.mask = 0 := by
  have hn : n &&& 7#3 = n := BitVec.and_allOnes
  have hfull : ∀ x : Half, x &&& 0xFFFF#16 = x := fun _ => BitVec.and_allOnes
  obtain ⟨hk, -⟩ := encTable_row h
  interval_cases k <;> cases h
  all_goals
    simp [decodeFields, formatted_eq_ok, fieldN, fieldA, fieldB, hn, hfull, and_highMask_eq_zero_iff,
      and_flagMask_eq_zero_iff, and_assoc]

/-- Row `k` selects the words that decode to operation `k` (30_encoding.md R64, R81). -/
theorem row_selects_iff {w : CmdWord} {k : Nat} {row : EncRow} (h : encTable[k]? = some row) :
    w &&& row.mask = row.pattern ↔ ∃ i, decode w = .ok i ∧ i.opNumber = BitVec.ofNat 4 k := by
  obtain ⟨-, hp, hop, hz⟩ := encTable_row h
  have hop' : fieldOp w &&& 0xF = fieldOp w := BitVec.and_allOnes
  have hz' : fieldZ w &&& 1 = fieldZ w := BitVec.and_allOnes
  rw [exists_decode_iff, decodeFields_isOk_iff h, and_eq_iff_fields, hp, hop, hz, hop', hz']
  simp

theorem opNumber_toNat_lt (i : Instr) : i.opNumber.toNat < 14 := by
  cases i <;> simp [Instr.opNumber]

/-- Settles O4: row by row, and two rows that select one word have the operation number of its command. -/
theorem decoderFollowsMatchMaskTable : Obligations.DecoderFollowsMatchMaskTable := by
  unfold Obligations.DecoderFollowsMatchMaskTable
  have hrow : ∀ (w : CmdWord) (k : Nat) (row : EncRow), encTable[k]? = some row →
      (w &&& row.mask = row.pattern ↔ ∃ i, decode w = .ok i ∧ i.opNumber.toNat = k) := by
    intro w k row h
    obtain ⟨hk, -⟩ := encTable_row h
    simp only [row_selects_iff h, BitVec.toNat_eq, BitVec.toNat_ofNat, Nat.mod_eq_of_lt (by omega : k < 2 ^ 4)]
  refine ⟨rfl, hrow, fun w j k p q hp hq hwp hwq => ?_⟩
  obtain ⟨i, hi, rfl⟩ := (hrow w j p hp).1 hwp
  obtain ⟨i', hi', rfl⟩ := (hrow w k q hq).1 hwq
  rw [Except.ok.inj (hi.symm.trans hi')]

/-- A word that decodes is selected by the row of its command. -/
theorem exists_row_of_decode {w : CmdWord} {i : Instr} (h : decode w = .ok i) :
    ∃ row ∈ encTable, w &&& row.mask = row.pattern := by
  have hrow : encTable[i.opNumber.toNat]? = some (encTable[i.opNumber.toNat]'(opNumber_toNat_lt i)) :=
    List.getElem?_eq_getElem _
  exact ⟨_, List.mem_of_getElem? hrow, (row_selects_iff hrow).2 ⟨i, h, by simp⟩⟩

end Sys2Proof

namespace Sys2Proof.Machine

/-- An idle block refuses a reserved word (30_encoding.md R80). -/
theorem step_reserved {s : State} {w : CmdWord} {rest : List CmdWord} {why : Reserved} (hc : ConfigWf s.cfg)
    (hb : s.busy = false) (hh : s.host = w :: rest) (hd : decode w = .error why) :
    step s = .refused (.reservedWord w why) := by
  simp [step, if_pos hc, hb, takeCommand, hh, hd, thenTicks]

/-- Settles O5: a word of no row does not decode, and the decoder's reason is the refusal's. -/
theorem reservedWordIsRefused : Obligations.ReservedWordIsRefused := by
  unfold Obligations.ReservedWordIsRefused
  intro s w rest hc hb hh hno
  cases hd : decode w with
  | ok i =>
    obtain ⟨row, hmem, hsel⟩ := exists_row_of_decode hd
    exact absurd hsel (hno row hmem)
  | error why => exact ⟨why, rfl, step_reserved hc hb hh hd⟩

end Sys2Proof.Machine

end

section
/-! SUPPORT. The sprite commands and their sequences of primitives (30_encoding.md R84): a command that stores is a list of
bus actions, a run of commands performs the actions of each in order, and the two lists are the same. -/

namespace Sys2Proof.Machine

/-! ### What the bus and the device see of a state -/

/-- A state without the handshake, HOST's words, the command latches and the command names of the history: what the
commands of 30_encoding.md R84 and their sequences agree on after every step. -/
def busView (s : State) : State :=
  { s with op := 0, n := 0, a := 0, b := 0, busy := false, ph := .idle, host := [], hist := busTrace s.hist }

@[simp] theorem busView_cfg (s : State) : (busView s).cfg = s.cfg := rfl

@[simp] theorem busView_accept (w : CmdWord) (i : Instr) (rest : List CmdWord) (s : State) :
    busView (accept w i rest s) = busView s := rfl

@[simp] theorem busView_goto (k : Nat) (s : State) : busView (goto k s) = busView s := rfl

@[simp] theorem busView_complete (i : Instr) (s : State) : busView (complete i s) = busView s := rfl

theorem busView_rasterTicks (s : State) : busView (rasterTicks s) = rasterTicks (busView s) := by
  cases h : s.sched <;> simp only [rasterTicks, h, busView] <;> rfl

/-- States with one view that stand in one phase with the same words to come have the same bus behaviour. -/
theorem sameBusBehaviour_of_busView {t u : State} (hv : busView t = busView u) (hbusy : t.busy = u.busy)
    (hph : t.ph = u.ph) (hhost : t.host = u.host) : SameBusBehaviour t u := by
  have hparts : ∀ x : State, { x with op := 0, n := 0, a := 0, b := 0, hist := busTrace x.hist } =
      { busView x with busy := x.busy, ph := x.ph, host := x.host } := fun _ => rfl
  rw [SameBusBehaviour, hparts, hparts, hv, hbusy, hph, hhost]

/-! ### Bus actions -/

/-- The bus transaction of one SEQ step of a command that stores (20_memory.md R44). -/
inductive BusAction where
  /-- The storage cell is read into `v`. -/
  | load (k : SprCell)
  /-- The storage cell takes a byte computed from `v`. -/
  | store (k : SprCell) (value : Byte → Byte)

/-- The state after the action. -/
def BusAction.effect (act : BusAction) (s : State) : State :=
  match act with
  | .load k => { afterRead (sprAddr s.cfg k) (.spr k) s with v := readCell s (.spr k) }
  | .store k value => afterWrite (sprAddr s.cfg k) k (value s.v) s

@[simp] theorem BusAction.effect_cfg (act : BusAction) (s : State) : (act.effect s).cfg = s.cfg := by
  cases act <;> simp [effect, afterRead, afterWrite]

@[simp] theorem BusAction.effect_host (act : BusAction) (s : State) : (act.effect s).host = s.host := by
  cases act <;> simp [effect, afterRead, afterWrite]

theorem BusAction.latchedWord_effect (act : BusAction) (s : State) : latchedWord (act.effect s) = latchedWord s := by
  cases act <;> simp [latchedWord, effect, afterRead, afterWrite]

/-- A cell is read and written alike in a state and in its view. -/
theorem BusAction.busView_effect (act : BusAction) (s : State) : busView (act.effect s) = act.effect (busView s) := by
  cases act with
  | load k => cases k <;> rfl
  | store k value => cases k <;> rfl

/-- The actions in order, RASTER's ticks after each. -/
def performed (acts : List BusAction) (s : State) : State := acts.foldl (fun t act => rasterTicks (act.effect t)) s

theorem performed_append (acts more : List BusAction) (s : State) :
    performed (acts ++ more) s = performed more (performed acts s) := List.foldl_append

theorem performed_cfg (acts : List BusAction) (s : State) : (performed acts s).cfg = s.cfg := by
  induction acts generalizing s with
  | nil => rfl
  | cons act acts ih => exact (ih _).trans (by simp)

/-! ### The actions of a command -/

/-- The command `i` makes these bus actions, one per SEQ step (40_register_access.md R91 to R93; 41_sprite_engine.md R100
to R103, R108, R109). -/
inductive Performs (c : Config) : Instr → List BusAction → Prop where
  | wr (k : SprCell) (d : Byte) : Performs c (.wr (sprAddr c k) d) [.store k fun _ => d]
  | setb (k : SprCell) (n : Slot) :
    Performs c (.setb (sprAddr c k) n.toNat) [.load k, .store k fun v => assignBit v n true]
  | clrb (k : SprCell) (n : Slot) :
    Performs c (.clrb (sprAddr c k) n.toNat) [.load k, .store k fun v => assignBit v n false]
  | sprEn (n : Slot) (flag : Bool) :
    Performs c (.sprEn n.toNat flag) [.load .enable, .store .enable fun v => assignBit v n flag]
  | sprMc (n : Slot) (flag : Bool) :
    Performs c (.sprMc n.toNat flag) [.load .mcm, .store .mcm fun v => assignBit v n flag]
  | sprBlk (n : Slot) (d : Byte) : Performs c (.sprBlk n.toNat d) [.store (.ptr n) fun _ => d]
  | sprCol (n : Slot) (d : Byte) : Performs c (.sprCol n.toNat d) [.store (.color n) fun _ => d]
  | sprCc (d e : Byte) : Performs c (.sprCc d e) [.store .mc0 fun _ => d, .store .mc1 fun _ => e]
  | sprPos (n : Slot) (x y : Half) :
    Performs c (.sprPos n.toNat x y)
      [.store (.x n) fun _ => posLow (clampNeg x), .store (.y n) fun _ => posLow (clampNeg y),
        .load .xmsb, .store .xmsb fun v => assignBit v n (posHigh (clampNeg x))]

/-- The bit of one slot is set or cleared by the primitive its new value selects (30_encoding.md R84). -/
theorem performs_assignBit (c : Config) (k : SprCell) (n : Slot) (flag : Bool) :
    Performs c (if flag then .setb (sprAddr c k) n.toNat else .clrb (sprAddr c k) n.toNat)
      [.load k, .store k fun v => assignBit v n flag] := by
  cases flag
  · exact .clrb k n
  · exact .setb k n

theorem Performs.wellFormed {c : Config} {i : Instr} {acts : List BusAction} (h : Performs c i acts) :
    i.wellFormed = true := by
  cases h
  case wr | sprCc => rfl
  all_goals exact decide_eq_true (BitVec.isLt _)

theorem Performs.ne_waitf {c : Config} {i : Instr} {acts : List BusAction} (h : Performs c i acts) : i ≠ .waitf := by
  rintro rfl
  cases h

/-- How a command of `n` SEQ steps leaves its step `k`: at the next one, or complete (10_state.md R13, R14). -/
def afterStep (i : Instr) (n k : Nat) (s : State) : State := if k + 1 < n then goto (k + 1) s else complete i s

/-- The SEQ step `k` of a command makes its action `k`. -/
def MakesActions (i : Instr) (acts : List BusAction) (s : State) : Prop :=
  ∀ (k : Nat) (act : BusAction), acts[k]? = some act → s.ph = .step k →
    exec i s = .next (afterStep i acts.length k (act.effect s))

theorem withWrite_sprAddr {s : State} (hm : MapWf s.cfg) (k : SprCell) (value : Byte → Byte) (next : State → State) :
    withWrite (sprAddr s.cfg k) (value s.v) s next = .next (next ((BusAction.store k value).effect s)) :=
  withWrite_of_cellAt (cellAt_sprAddr hm k) _ _

theorem withRead_sprAddr {s : State} (hm : MapWf s.cfg) (k : SprCell) (next : State → State) :
    withRead (sprAddr s.cfg k) s (fun d t => next { t with v := d }) = .next (next ((BusAction.load k).effect s)) :=
  withRead_of_cellAt (cellAt_sprAddr hm k) _

/-- A command that is one bus write. -/
theorem makesActions_write {i : Instr} {s : State} {k : SprCell} {d : Byte} (hm : MapWf s.cfg)
    (h : exec i s = withWrite (sprAddr s.cfg k) d s (complete i)) : MakesActions i [.store k fun _ => d] s := by
  intro j act hact hp
  match j with
  | 0 =>
    cases hact
    exact h.trans (withWrite_sprAddr hm k (fun _ => d) _)

/-- A command that is a read-modify-write. -/
theorem makesActions_readModifyWrite {i : Instr} {s : State} {k : SprCell} {modify : Byte → Byte} (hm : MapWf s.cfg)
    (h : exec i s = readModifyWrite i (sprAddr s.cfg k) modify s) : MakesActions i [.load k, .store k modify] s := by
  intro j act hact hp
  match j with
  | 0 =>
    cases hact
    rw [h, readModifyWrite_read (by simp [hp])]
    exact withRead_sprAddr hm k (goto 1)
  | 1 =>
    cases hact
    rw [h, readModifyWrite_write hp]
    exact withWrite_sprAddr hm k modify _

/-- Each SEQ step of the command makes its action. -/
theorem Performs.makesActions {s : State} {i : Instr} {acts : List BusAction} (hm : MapWf s.cfg)
    (h : Performs s.cfg i acts) : MakesActions i acts s := by
  have hslot : ∀ n : Slot, BitVec.ofNat 3 n.toNat = n := fun n => by simp
  cases h with
  | wr k d => exact makesActions_write hm (exec_wr _ d s)
  | setb k n =>
    exact makesActions_readModifyWrite hm (by rw [exec_setb n.isLt, hslot]; rfl)
  | clrb k n =>
    exact makesActions_readModifyWrite hm (by rw [exec_clrb n.isLt, hslot]; rfl)
  | sprEn n flag =>
    exact makesActions_readModifyWrite hm (by rw [exec_sprEn n.isLt, hslot]; rfl)
  | sprMc n flag =>
    exact makesActions_readModifyWrite hm (by rw [exec_sprMc n.isLt, hslot]; rfl)
  | sprBlk n d =>
    exact makesActions_write hm (by rw [exec_sprBlk n.isLt, hslot]; rfl)
  | sprCol n d =>
    exact makesActions_write hm (by rw [exec_sprCol n.isLt, hslot]; rfl)
  | sprCc d e =>
    intro k act hact hp
    match k with
    | 0 =>
      cases hact
      rw [exec_sprCc_first (by simp [hp])]
      exact withWrite_sprAddr hm .mc0 (fun _ => d) (goto 1)
    | 1 =>
      cases hact
      rw [exec_sprCc_second hp]
      exact withWrite_sprAddr hm .mc1 (fun _ => e) _
  | sprPos n x y =>
    intro k act hact hp
    rw [exec_sprPos n.isLt, hp, hslot]
    match k with
    | 0 =>
      cases hact
      exact withWrite_sprAddr hm (.x n) (fun _ => posLow (clampNeg x)) (goto 1)
    | 1 =>
      cases hact
      exact withWrite_sprAddr hm (.y n) (fun _ => posLow (clampNeg y)) (goto 2)
    | 2 =>
      cases hact
      exact withRead_sprAddr hm .xmsb (goto 3)
    | 3 =>
      cases hact
      exact withWrite_sprAddr hm .xmsb (fun v => assignBit v n (posHigh (clampNeg x))) _

/-! ### Runs -/

/-- A run of `m` steps from `s` leads to an idle block that has made the actions, with `rest` still to come. -/
def RunPerforms (m : Nat) (s : State) (acts : List BusAction) (rest : List CmdWord) : Prop :=
  ∃ t, Host.Core.run Sys2Proof.core m s = .next t ∧ t.busy = false ∧ t.ph = .idle ∧ t.host = rest ∧
    busView t = performed acts (busView s)

/-- A run goes on from the state its first part leads to. -/
theorem run_add {s t : State} {m : Nat} (h : Host.Core.run Sys2Proof.core m s = .next t) (n : Nat) :
    Host.Core.run Sys2Proof.core (m + n) s = Host.Core.run Sys2Proof.core n t := by
  induction m generalizing s with
  | zero =>
    cases h
    rw [Nat.zero_add]
  | succ m ih =>
    rw [Nat.succ_add]
    simp only [Host.Core.run] at h ⊢
    split at h
    · exact ih h
    · cases h
    · cases h

/-- A run of one more action, made by the first step. -/
theorem RunPerforms.of_step {m : Nat} {s t : State} {act : BusAction} {acts : List BusAction} {rest : List CmdWord}
    (hstep : step s = .next t) (hview : busView t = rasterTicks (act.effect (busView s)))
    (h : RunPerforms m t acts rest) : RunPerforms (m + 1) s (act :: acts) rest := by
  obtain ⟨u, hrun, hbusy, hph, hhost, hu⟩ := h
  exact ⟨u, (run_of_step hstep m).trans hrun, hbusy, hph, hhost, by rw [hu, hview]; rfl⟩

/-- A step of a command in progress makes the next of the actions it has left. -/
theorem step_makesAction {i : Instr} {s : State} {acts : List BusAction} {k : Nat} {act : BusAction}
    {more : List BusAction} (hc : ConfigWf s.cfg) (h : Performs s.cfg i acts) (hs : InProgress i k s)
    (hleft : acts.drop k = act :: more) :
    step s = .next (rasterTicks (if more = [] then complete i (act.effect s) else goto (k + 1) (act.effect s))) := by
  obtain ⟨hb, hp, hd⟩ := hs
  have hact : acts[k]? = some act := by rw [← List.head?_drop, hleft, List.head?_cons]
  have hlen : acts.length - k = more.length + 1 := by rw [← List.length_drop, hleft, List.length_cons]
  rw [step_busy hc hb hd, h.makesActions hc.1 k act hact hp, thenTicks_next, afterStep]
  cases more with
  | nil =>
    rw [List.length_nil] at hlen
    rw [if_neg (by omega), if_pos rfl]
  | cons next more =>
    rw [List.length_cons] at hlen
    rw [if_pos (by omega), if_neg (List.cons_ne_nil _ _)]

/-- A command in progress makes the actions it has left, and completes. -/
theorem runPerforms_of_inProgress {i : Instr} {acts : List BusAction} {s : State} {k : Nat} {act : BusAction}
    {more : List BusAction} (hc : ConfigWf s.cfg) (h : Performs s.cfg i acts) (hs : InProgress i k s)
    (hleft : acts.drop k = act :: more) : RunPerforms (more.length + 1) s (act :: more) s.host := by
  have hstep := step_makesAction hc h hs hleft
  induction more generalizing s k act with
  | nil =>
    rw [if_pos rfl] at hstep
    exact .of_step hstep (by simp [busView_rasterTicks, act.busView_effect]) ⟨_, rfl, by simp, by simp, by simp, rfl⟩
  | cons next more ih =>
    rw [if_neg (List.cons_ne_nil _ _)] at hstep
    obtain ⟨-, -, hd⟩ := hs
    have hlatch : latchedWord (rasterTicks (goto (k + 1) (act.effect s))) = latchedWord s := by
      rw [← act.latchedWord_effect s]
      simp [latchedWord]
    have hgo : InProgress i (k + 1) (rasterTicks (goto (k + 1) (act.effect s))) :=
      ⟨by simp, by simp, by rw [hlatch, hd]⟩
    have hleft' : acts.drop (k + 1) = next :: more := by rw [← List.drop_drop, hleft, List.drop_one, List.tail_cons]
    have hcfg : (rasterTicks (goto (k + 1) (act.effect s))).cfg = s.cfg := by simp
    have hc' := hcfg.symm ▸ hc
    have h' := hcfg.symm ▸ h
    have hrun := ih hc' h' hgo hleft' (step_makesAction hc' h' hgo hleft')
    exact .of_step hstep (by simp [busView_rasterTicks, act.busView_effect]) (by simpa using hrun)

theorem Performs.exists_cons {c : Config} {i : Instr} {acts : List BusAction} (h : Performs c i acts) :
    ∃ act more, acts = act :: more := by
  cases h <;> exact ⟨_, _, rfl⟩

/-- A command HOST presents makes its actions. -/
theorem runPerforms_command {i : Instr} {acts : List BusAction} {s : State} {rest : List CmdWord}
    (hc : ConfigWf s.cfg) (hb : s.busy = false) (hh : s.host = encode i :: rest) (h : Performs s.cfg i acts) :
    RunPerforms acts.length s acts rest := by
  obtain ⟨act, more, rfl⟩ := h.exists_cons
  have hd := decode_encode h.wellFormed
  have hgo : InProgress i 0 (accept (encode i) i rest s) :=
    ⟨rfl, by simp [startPhase_of_decode hd, h.ne_waitf], by rw [latchedWord_accept hd, hd]⟩
  have hrun := runPerforms_of_inProgress (s := accept (encode i) i rest s) hc h hgo rfl
  unfold RunPerforms at hrun ⊢
  rwa [busView_accept, accept_host, ← run_congr (step_accept hc hb hh hd)] at hrun

/-- The commands make these bus actions, one command's after the other's. -/
inductive PerformsAll (c : Config) : List Instr → List BusAction → Prop where
  | one {i : Instr} {acts : List BusAction} (h : Performs c i acts) : PerformsAll c [i] acts
  | cons {i : Instr} {acts : List BusAction} {is : List Instr} {more : List BusAction} (h : Performs c i acts)
    (hmore : PerformsAll c is more) : PerformsAll c (i :: is) (acts ++ more)

/-- Commands HOST presents in order make their actions in order. -/
theorem runPerforms_commands {c : Config} {is : List Instr} {acts : List BusAction} {s : State} {rest : List CmdWord}
    (hs : s.cfg = c) (hc : ConfigWf c) (hb : s.busy = false) (hh : s.host = is.map encode ++ rest)
    (h : PerformsAll c is acts) : RunPerforms acts.length s acts rest := by
  induction h generalizing s with
  | one h =>
    subst hs
    exact runPerforms_command hc hb hh h
  | @cons i acts is more h hmore ih =>
    subst hs
    obtain ⟨t, hrun, htb, -, hth, hview⟩ := runPerforms_command hc hb hh h
    have hcfg : t.cfg = s.cfg := by rw [← busView_cfg t, hview, performed_cfg, busView_cfg]
    obtain ⟨u, hrun', hub, hup, huh, hview'⟩ := ih hcfg htb hth
    exact ⟨u, by rw [List.length_append, run_add hrun, hrun'], hub, hup, huh,
      by rw [hview', hview, performed_append]⟩

/-- A command and a sequence of commands that make the same actions have the same bus behaviour. -/
theorem sameBusBehaviour_of_performs {s : State} {i : Instr} {is : List Instr} {acts : List BusAction}
    (rest : List CmdWord) (hc : ConfigWf s.cfg) (hb : s.busy = false) (hi : Performs s.cfg i acts)
    (his : PerformsAll s.cfg is acts) :
    ∃ t u, Host.Core.run Sys2Proof.core acts.length { s with host := encode i :: rest } = .next t ∧
      Host.Core.run Sys2Proof.core acts.length { s with host := is.map encode ++ rest } = .next u ∧
      t.host = rest ∧ t.busy = false ∧ SameBusBehaviour t u := by
  obtain ⟨t, hrt, htb, htp, hth, htv⟩ :=
    runPerforms_command (s := { s with host := encode i :: rest }) hc hb rfl hi
  obtain ⟨u, hru, hub, hup, huh, huv⟩ :=
    runPerforms_commands (s := { s with host := is.map encode ++ rest }) rfl hc hb rfl his
  exact ⟨t, u, hrt, hru, hth, htb, sameBusBehaviour_of_busView (htv.trans huv.symm) (htb.trans hub.symm)
    (htp.trans hup.symm) (hth.trans huh.symm)⟩

/-- Settles O52: row by row, command and sequence make the same bus actions. -/
theorem spriteCommandsAreMacros : Obligations.SpriteCommandsAreMacros := by
  unfold Obligations.SpriteCommandsAreMacros
  intro s n flag d e x y rest hc hb k i is hrow
  simp only [List.mem_cons, Prod.mk.injEq, List.not_mem_nil, or_false] at hrow
  rcases hrow with ⟨rfl, rfl, rfl⟩ | ⟨rfl, rfl, rfl⟩ | ⟨rfl, rfl, rfl⟩ | ⟨rfl, rfl, rfl⟩ | ⟨rfl, rfl, rfl⟩ |
    ⟨rfl, rfl, rfl⟩
  · exact sameBusBehaviour_of_performs rest hc hb (.sprEn n flag) (.one (performs_assignBit s.cfg .enable n flag))
  · exact sameBusBehaviour_of_performs rest hc hb (.sprMc n flag) (.one (performs_assignBit s.cfg .mcm n flag))
  · exact sameBusBehaviour_of_performs rest hc hb (.sprBlk n d) (.one (.wr (.ptr n) d))
  · exact sameBusBehaviour_of_performs rest hc hb (.sprCol n d) (.one (.wr (.color n) d))
  · exact sameBusBehaviour_of_performs rest hc hb (.sprCc d e) (.cons (.wr .mc0 d) (.one (.wr .mc1 e)))
  · exact sameBusBehaviour_of_performs rest hc hb (.sprPos n x y)
      (.cons (.wr (.x n) _) (.cons (.wr (.y n) _) (.one (performs_assignBit s.cfg .xmsb n _))))

end Sys2Proof.Machine

end

section
/-! SUPPORT. Proofs about register access (40_register_access.md): the five primitives, each as the bus transaction
of its SEQ step at the cell its address names. -/

namespace Sys2Proof

/-- A byte operand's field is the byte under eight zeros (30_encoding.md R61). -/
theorem byteField_eq_append (v : Byte) : byteField v = 0#8 ++ v :=
  (BitVec.setWidth_eq_append (by decide)).trans (by simp)

end Sys2Proof

namespace Sys2Proof.Machine

/-! ### Bit operations at an index below 8 -/

theorem bitMask_ofNat {bit : Nat} (hb : bit < 8) : bitMask (BitVec.ofNat 3 bit) = 1#8 <<< bit := by
  rw [bitMask, BitVec.toNat_ofNat, Nat.mod_eq_of_lt hb]

/-- The tested bit as a number (40_register_access.md R94). -/
theorem testBit_ofNat {bit : Nat} (hb : bit < 8) (v : Byte) :
    testBit v (BitVec.ofNat 3 bit) = if v.getLsbD bit then 1 else 0 := by
  rw [testBit, BitVec.toNat_ofNat, Nat.mod_eq_of_lt hb]
  have hlow : v >>> bit &&& 1 = BitVec.setWidth 8 (BitVec.ofBool (v.getLsbD bit)) := by
    simpa using BitVec.and_one_eq_setWidth_ofBool_getLsbD (x := v >>> bit)
  rw [hlow]
  cases v.getLsbD bit <;> rfl

/-! ### What a transaction and the end of its SEQ step make of the state -/

/-- A bus write that completes its command: the cell and the history, `BUSY` and `PH` (10_state.md R13, R14, R31). -/
theorem complete_afterWrite (i : Instr) (addr : Addr) (k : SprCell) (d : Byte) (s : State) :
    complete i (afterWrite addr k d s) = { setCell s k d with
      busy := false, ph := .idle
      hist := .completed i :: .bus .write addr d s.line s.frame :: s.hist } := by
  simp only [complete, afterWrite, record, setCell_line, setCell_frame, setCell_hist]

/-- The read step of a read-modify-write of any cell: the byte goes to `v` (20_memory.md R44). -/
theorem readModifyWrite_of_cellAt {i : Instr} {addr : Addr} {modify : Byte → Byte} {s : State} {k : Cell}
    (hp : s.ph ≠ .step 1) (hk : cellAt s.cfg addr = some k) :
    readModifyWrite i addr modify s = .next { s with
      v := readCell s k, busy := true, ph := .step 1, draws := s.draws + drawsOfRead k
      hist := .bus .read addr (readCell s k) s.line s.frame :: s.hist } := by
  rw [readModifyWrite_read hp, withRead_of_cellAt hk]
  rfl

/-- The write-back of a read-modify-write of a storage cell, whatever the cell holds by then
(92_eei_decisions.md D12). -/
theorem readModifyWrite_of_spr {i : Instr} {addr : Addr} {modify : Byte → Byte} {s : State} {k : SprCell}
    (hp : s.ph = .step 1) (hk : cellAt s.cfg addr = some (.spr k)) :
    readModifyWrite i addr modify s = .next { setCell s k (modify s.v) with
      busy := false, ph := .idle
      hist := .completed i :: .bus .write addr (modify s.v) s.line s.frame :: s.hist } := by
  rw [readModifyWrite_write hp, withWrite_of_cellAt hk, complete_afterWrite]

/-- What a colour cell shows: the low nibble it holds under four free bits (10_state.md R30). -/
theorem readCell_of_colour (s : State) {j : SprCell} (hj : j.isColour = true) :
    readCell s (.spr j) = Config.freeNibble s.draws ++ (getCell s j).extractLsb' 0 4 :=
  if_pos hj

/-- What a cell that is no colour shows: the byte it holds (10_state.md R30). -/
theorem readCell_of_not_colour (s : State) {j : SprCell} (hj : j.isColour = false) :
    readCell s (.spr j) = getCell s j :=
  if_neg (by simp [hj])

/-! ### The five primitives -/

/-- Settles O13: `SETB` is a read-modify-write, and its mask is `1 << bit`. -/
theorem setbReadsThenSetsTheBit : Obligations.SetbReadsThenSetsTheBit := by
  unfold Obligations.SetbReadsThenSetsTheBit
  intro s addr bit hb
  rw [exec_setb hb, ← bitMask_ofNat hb]
  exact ⟨decode_encode (i := .setb addr bit) (decide_eq_true hb), fun _ => readModifyWrite_of_cellAt,
    fun _ => readModifyWrite_of_spr, fun hp hr => readModifyWrite_of_raster hr hp, readModifyWrite_of_unmapped⟩

/-- Settles O14: `CLRB` is a read-modify-write, and its mask is the complement of `1 << bit`. -/
theorem clrbReadsThenClearsTheBit : Obligations.ClrbReadsThenClearsTheBit := by
  unfold Obligations.ClrbReadsThenClearsTheBit
  intro s addr bit hb
  rw [exec_clrb hb, ← bitMask_ofNat hb]
  exact ⟨decode_encode (i := .clrb addr bit) (decide_eq_true hb), fun _ => readModifyWrite_of_cellAt,
    fun _ => readModifyWrite_of_spr, fun hp hr => readModifyWrite_of_raster hr hp, readModifyWrite_of_unmapped⟩

/-- Settles O15: the cell at the address decides the read, and the byte read the bit. -/
theorem tstbReturnsTheBit : Obligations.TstbReturnsTheBit := by
  unfold Obligations.TstbReturnsTheBit
  intro s addr bit hb
  rw [exec_tstb hb]
  refine ⟨decode_encode (i := .tstb addr bit) (decide_eq_true hb), fun k hk => ?_, fun hno => withRead_of_unmapped hno _⟩
  rw [withRead_of_cellAt hk, testBit_ofNat hb]
  rfl

/-- Settles O11: the cell at the address decides the read, and its kind the byte. -/
theorem rdReturnsTheByteRead : Obligations.RdReturnsTheByteRead := by
  unfold Obligations.RdReturnsTheByteRead
  intro s addr
  rw [exec_rd]
  refine ⟨decode_encode (i := .rd addr) rfl, fun k hk => ⟨?_, ?_, ?_, ?_, ?_⟩, fun hno => withRead_of_unmapped hno _⟩
  · rw [withRead_of_cellAt hk, ← byteField_eq_append]
    rfl
  · rintro rfl
    rfl
  · rintro rfl
    exact ⟨Config.freeCtrlHi s.draws, rfl⟩
  · rintro j rfl hj
    exact readCell_of_not_colour s hj
  · rintro j rfl hj
    exact ⟨Config.freeNibble s.draws, readCell_of_colour s hj⟩

/-- Settles O12: the cell at the address decides the write. -/
theorem wrStoresTheByte : Obligations.WrStoresTheByte := by
  unfold Obligations.WrStoresTheByte
  intro s addr value hwf
  rw [exec_wr, ← byteField_eq_append]
  refine ⟨decode_encode (i := .wr addr value) rfl,
    fun k hk => ⟨?_, getCell_setCell_same hwf k value, setCell_res s k value⟩,
    fun hr => withWrite_of_raster hr value _, fun hno => withWrite_of_unmapped hno value _⟩
  rw [withWrite_of_cellAt hk, complete_afterWrite]

end Sys2Proof.Machine

end

section
/-! SUPPORT. Proofs about the sprite engine (41_sprite_engine.md): the seven commands SEQ step by SEQ step, each step as
the bus transaction at its cell's address; the device position of a slot; the block pointer and its data block. -/

namespace Sys2Proof.Machine

/-! ### Operands -/

/-- A slot written into the field `N` is read back (30_encoding.md R62). -/
theorem slot_ofNat_toNat (n : Slot) : BitVec.ofNat 3 n.toNat = n := by simp

/-- Decoding the word of a well-formed command, given by its fields. -/
theorem decode_of_encode_eq {i : Instr} {w : CmdWord} (hi : i.wellFormed = true) (hw : encode i = w) :
    decode w = .ok i := hw ▸ decode_encode hi

theorem clampNeg_of_neg {x : Half} (h : x.toInt < 0) : clampNeg x = 0 :=
  if_pos (BitVec.slt_iff_toInt_lt.2 h)

theorem clampNeg_of_nonneg {x : Half} (h : 0 ≤ x.toInt) : clampNeg x = x :=
  if_neg fun hneg => not_lt.2 h (BitVec.slt_iff_toInt_lt.1 hneg)

/-- Settles O38: the clamp tests the sign (92_eei_decisions.md D8). -/
theorem clampZeroesNegatives : Obligations.ClampZeroesNegatives := by
  unfold Obligations.ClampZeroesNegatives
  exact fun x => ⟨clampNeg_of_neg, clampNeg_of_nonneg⟩

theorem posLow_eq_extract (cx : Half) : posLow cx = cx.extractLsb' 0 8 :=
  BitVec.setWidth_eq_extractLsb' (by decide)

theorem posLow_toNat (cx : Half) : (posLow cx).toNat = cx.toNat % 256 := BitVec.toNat_setWidth ..

theorem posHigh_eq_decide (cx : Half) : posHigh cx = decide (255 < cx.toNat) := rfl

/-- The clamped coordinate exceeds 255 exactly when the signed one does (41_sprite_engine.md R104). -/
theorem posHigh_clampNeg (x : Half) : posHigh (clampNeg x) = decide (255 < x.toInt) := by
  rcases lt_or_ge x.toInt 0 with h | h
  · rw [clampNeg_of_neg h, decide_eq_false (by omega)]
    rfl
  · rw [clampNeg_of_nonneg h, posHigh_eq_decide, BitVec.toInt_eq_toNat_of_msb (by simpa [BitVec.msb_eq_toInt] using h)]
    norm_cast

/-- The 9-bit position a coordinate gives: exact up to 511, and beyond it bit 8 stays 1 (30_encoding.md R73). -/
theorem position_toNat (cx : Half) :
    (posHigh cx).toNat * 256 + cx.toNat % 256 = if cx.toNat ≤ 511 then cx.toNat else 256 + cx.toNat % 256 := by
  rw [posHigh_eq_decide]
  by_cases hhigh : 255 < cx.toNat
  · rw [decide_eq_true hhigh, Bool.toNat_true]
    split <;> omega
  · rw [decide_eq_false hhigh, if_pos (by omega), Bool.toNat_false]
    omega

/-! ### The lanes of a mask register (41_sprite_engine.md R114) -/

/-- The bit of slot `n` set or cleared, as 41_sprite_engine.md R100 writes it. -/
theorem assignBit_eq (v : Byte) (n : Slot) (flag : Bool) :
    assignBit v n flag = if flag then v ||| 1#8 <<< n.toNat else v &&& ~~~(1#8 <<< n.toNat) := rfl

theorem assignBit_ofNat {n : Nat} (hn : n < 8) (v : Byte) (flag : Bool) :
    assignBit v (BitVec.ofNat 3 n) flag = if flag then v ||| 1#8 <<< n else v &&& ~~~(1#8 <<< n) := by
  rw [assignBit_eq, BitVec.toNat_ofNat, Nat.mod_eq_of_lt hn]

theorem getLsbD_bitMask (n : Slot) (j : Nat) : (bitMask n).getLsbD j = decide (j = n.toNat) := by
  rw [bitMask, ← BitVec.twoPow_eq, BitVec.getLsbD_twoPow, decide_eq_true n.isLt, Bool.true_and]
  exact decide_eq_decide.2 eq_comm

/-- Lane `n` takes the flag, every other lane stays. -/
theorem getLsbD_assignBit (v : Byte) (n : Slot) (flag : Bool) {j : Nat} (hj : j < 8) :
    (assignBit v n flag).getLsbD j = if j = n.toNat then flag else v.getLsbD j := by
  cases flag with
  | false =>
    have hclear : (withoutBit v n).getLsbD j = (v.getLsbD j && !decide (j = n.toNat)) := by
      rw [withoutBit, BitVec.getLsbD_and, BitVec.getLsbD_not, getLsbD_bitMask, decide_eq_true hj, Bool.true_and]
    by_cases hjn : j = n.toNat <;> simpa [assignBit, hjn] using hclear
  | true =>
    have hset : (withBit v n).getLsbD j = (v.getLsbD j || decide (j = n.toNat)) := by
      rw [withBit, BitVec.getLsbD_or, getLsbD_bitMask]
    by_cases hjn : j = n.toNat <;> simpa [assignBit, hjn] using hset

/-! ### The commands, SEQ step by SEQ step

The next state in full, at the phases each step runs in; a phase that is not the command's own is taken as its first
(log 12). -/

/-- A bus write after which its command goes on: the cell, the history, `BUSY` and `PH` (10_state.md R13, R14, R31). -/
theorem goto_afterWrite (j : Nat) (addr : Addr) (k : SprCell) (d : Byte) (s : State) :
    goto j (afterWrite addr k d s) = { setCell s k d with
      busy := true, ph := .step j, hist := .bus .write addr d s.line s.frame :: s.hist } := by
  simp only [goto, afterWrite, record, setCell_line, setCell_frame, setCell_hist]

section
variable {s : State} (hm : MapWf s.cfg)
include hm

theorem exec_sprEn_read {n : Nat} (hn : n < 8) (flag : Bool) (hp : s.ph ≠ .step 1) :
    exec (.sprEn n flag) s = .next { s with
      v := s.sprEnable, busy := true, ph := .step 1
      hist := .bus .read s.cfg.aSprEnable s.sprEnable s.line s.frame :: s.hist } :=
  (exec_sprEn hn flag s).trans (readModifyWrite_of_cellAt hp (cellAt_enable hm))

theorem exec_sprEn_write {n : Nat} (hn : n < 8) (flag : Bool) (hp : s.ph = .step 1) :
    exec (.sprEn n flag) s = .next { s with
      sprEnable := assignBit s.v (BitVec.ofNat 3 n) flag, busy := false, ph := .idle
      hist := .completed (.sprEn n flag) ::
        .bus .write s.cfg.aSprEnable (assignBit s.v (BitVec.ofNat 3 n) flag) s.line s.frame :: s.hist } :=
  (exec_sprEn hn flag s).trans (readModifyWrite_of_spr hp (cellAt_enable hm))

theorem exec_sprMc_read {n : Nat} (hn : n < 8) (flag : Bool) (hp : s.ph ≠ .step 1) :
    exec (.sprMc n flag) s = .next { s with
      v := s.sprMcm, busy := true, ph := .step 1
      hist := .bus .read s.cfg.aSprMcm s.sprMcm s.line s.frame :: s.hist } :=
  (exec_sprMc hn flag s).trans (readModifyWrite_of_cellAt hp (cellAt_mcm hm))

theorem exec_sprMc_write {n : Nat} (hn : n < 8) (flag : Bool) (hp : s.ph = .step 1) :
    exec (.sprMc n flag) s = .next { s with
      sprMcm := assignBit s.v (BitVec.ofNat 3 n) flag, busy := false, ph := .idle
      hist := .completed (.sprMc n flag) ::
        .bus .write s.cfg.aSprMcm (assignBit s.v (BitVec.ofNat 3 n) flag) s.line s.frame :: s.hist } :=
  (exec_sprMc hn flag s).trans (readModifyWrite_of_spr hp (cellAt_mcm hm))

theorem exec_sprPos_writeX (n : Slot) (x y : Half) (h1 : s.ph ≠ .step 1) (h2 : s.ph ≠ .step 2) (h3 : s.ph ≠ .step 3) :
    exec (.sprPos n.toNat x y) s = .next { s with
      sprX := s.sprX.set n.toNat (posLow (clampNeg x)), busy := true, ph := .step 1
      hist := .bus .write (eaPosX s.cfg n) (posLow (clampNeg x)) s.line s.frame :: s.hist } := by
  rw [exec_sprPos n.isLt, slot_ofNat_toNat]
  split
  · contradiction
  · contradiction
  · contradiction
  · rw [withWrite_of_cellAt (cellAt_eaPosX hm n), goto_afterWrite]
    rfl

theorem exec_sprPos_writeY (n : Slot) (x y : Half) (hp : s.ph = .step 1) :
    exec (.sprPos n.toNat x y) s = .next { s with
      sprY := s.sprY.set n.toNat (posLow (clampNeg y)), busy := true, ph := .step 2
      hist := .bus .write (eaPosY s.cfg n) (posLow (clampNeg y)) s.line s.frame :: s.hist } := by
  rw [exec_sprPos n.isLt, slot_ofNat_toNat, hp]
  exact (withWrite_of_cellAt (cellAt_eaPosY hm n) _ _).trans (by rw [goto_afterWrite]; rfl)

theorem exec_sprPos_readXmsb (n : Slot) (x y : Half) (hp : s.ph = .step 2) :
    exec (.sprPos n.toNat x y) s = .next { s with
      v := s.sprXmsb, busy := true, ph := .step 3
      hist := .bus .read s.cfg.aXmsb s.sprXmsb s.line s.frame :: s.hist } := by
  rw [exec_sprPos n.isLt, hp]
  exact withRead_of_cellAt (cellAt_xmsb hm) _

theorem exec_sprPos_writeXmsb (n : Slot) (x y : Half) (hp : s.ph = .step 3) :
    exec (.sprPos n.toNat x y) s = .next { s with
      sprXmsb := assignBit s.v n (posHigh (clampNeg x)), busy := false, ph := .idle
      hist := .completed (.sprPos n.toNat x y) ::
        .bus .write s.cfg.aXmsb (assignBit s.v n (posHigh (clampNeg x))) s.line s.frame :: s.hist } := by
  rw [exec_sprPos n.isLt, slot_ofNat_toNat, hp]
  exact (withWrite_of_cellAt (cellAt_xmsb hm) _ _).trans (by rw [complete_afterWrite]; rfl)

end

/-- Settles O16: `SPR_EN` is a read-modify-write of `SPR_ENABLE`. -/
theorem sprEnWritesOneEnableBit : Obligations.SprEnWritesOneEnableBit := by
  unfold Obligations.SprEnWritesOneEnableBit
  rintro s n flag ⟨hm, -, -⟩ hn
  refine ⟨decode_encode (i := .sprEn n flag) (decide_eq_true hn), exec_sprEn_read hm hn flag, fun hp => ?_⟩
  rw [exec_sprEn_write hm hn flag hp, assignBit_ofNat hn]

/-- Settles O17: `SPR_MC` is a read-modify-write of `SPR_MCM`. -/
theorem sprMcWritesOneModeBit : Obligations.SprMcWritesOneModeBit := by
  unfold Obligations.SprMcWritesOneModeBit
  rintro s n flag ⟨hm, -, -⟩ hn
  refine ⟨decode_encode (i := .sprMc n flag) (decide_eq_true hn), exec_sprMc_read hm hn flag, fun hp => ?_⟩
  rw [exec_sprMc_write hm hn flag hp, assignBit_ofNat hn]

/-- Settles O19: the four SEQ steps in order, and the bit operation as 41_sprite_engine.md R107 writes it. -/
theorem sprPosWritesThePosition : Obligations.SprPosWritesThePosition := by
  unfold Obligations.SprPosWritesThePosition
  rintro s n x y cx cy ⟨hm, -, -⟩ hcx hcy
  obtain rfl : cx = clampNeg x := hcx
  obtain rfl : cy = clampNeg y := hcy
  have hbit : assignBit s.v n (posHigh (clampNeg x)) =
      if 255 < (clampNeg x).toNat then s.v ||| 1#8 <<< n.toNat else s.v &&& ~~~(1#8 <<< n.toNat) := by
    simp only [assignBit_eq, posHigh_eq_decide, decide_eq_true_eq]
  rw [← posLow_eq_extract, ← posLow_eq_extract, ← hbit]
  exact ⟨decode_of_encode_eq (decide_eq_true n.isLt) (by rw [encode, slot_ofNat_toNat]),
    exec_sprPos_writeX hm n x y, exec_sprPos_writeY hm n x y, exec_sprPos_readXmsb hm n x y,
    exec_sprPos_writeXmsb hm n x y⟩

/-- Settles O41: the read takes the whole register into `v`, the write back changes one lane. -/
theorem maskLanesAreIndependent : Obligations.MaskLanesAreIndependent := by
  unfold Obligations.MaskLanesAreIndependent
  rintro s n flag x y j ⟨hm, -, -⟩ hj
  have hlane : (assignBit s.v (BitVec.ofNat 3 n.toNat) flag).getLsbD j =
      if j = n.toNat then flag else s.v.getLsbD j := by
    rw [slot_ofNat_toNat, getLsbD_assignBit _ _ _ hj]
  refine ⟨fun hp => ⟨⟨_, exec_sprEn_read hm n.isLt flag hp, rfl, rfl, rfl⟩,
      ⟨_, exec_sprMc_read hm n.isLt flag hp, rfl, rfl, rfl⟩⟩,
    fun hp => ⟨⟨_, exec_sprEn_write hm n.isLt flag hp, hlane⟩, ⟨_, exec_sprMc_write hm n.isLt flag hp, hlane⟩⟩,
    fun hp => ⟨_, exec_sprPos_readXmsb hm n x y hp, rfl, rfl, rfl⟩,
    fun hp => ⟨_, exec_sprPos_writeXmsb hm n x y hp, ?_⟩⟩
  rw [← posHigh_clampNeg, getLsbD_assignBit _ _ _ hj]

/-- Settles O20: `SPR_COL` is one bus write. -/
theorem sprColWritesTheColour : Obligations.SprColWritesTheColour := by
  unfold Obligations.SprColWritesTheColour
  rintro s n colour ⟨hm, -, -⟩
  rw [← byteField_eq_append, exec_sprCol n.isLt, slot_ofNat_toNat, withWrite_of_cellAt (cellAt_eaColor hm n),
    complete_afterWrite]
  exact ⟨decode_of_encode_eq (decide_eq_true n.isLt) (by rw [encode, slot_ofNat_toNat]), rfl⟩

/-- Settles O21: two bus writes, `a` first (92_eei_decisions.md D29). -/
theorem sprCcWritesBothSharedColours : Obligations.SprCcWritesBothSharedColours := by
  unfold Obligations.SprCcWritesBothSharedColours
  rintro s ca cb ⟨hm, -, -⟩
  rw [← byteField_eq_append, ← byteField_eq_append]
  refine ⟨decode_encode (i := .sprCc ca cb) rfl, fun hp => ?_, fun hp => ?_⟩
  · rw [exec_sprCc_first hp, withWrite_of_cellAt (cellAt_mc0 hm), goto_afterWrite]
    rfl
  · rw [exec_sprCc_second hp, withWrite_of_cellAt (cellAt_mc1 hm), complete_afterWrite]
    rfl

/-- Settles O43: the index is checked before anything else (92_eei_decisions.md D13). -/
theorem indexAboveSevenIsRefused : Obligations.IndexAboveSevenIsRefused := by
  unfold Obligations.IndexAboveSevenIsRefused
  intro s n addr flag d x y h
  simp only [exec, execSetb, execClrb, execTstb, execSprEn, execSprMc, execSprBlk, execSprPos, execSprCol,
    withIndex_of_ge h, and_self]

/-! ### The device position of a slot (10_state.md R22) -/

/-- The 9-bit x of a slot: its lane of `SPR_XMSB` over its `SPR_X`. -/
theorem x9_eq (s : State) (n : Slot) : x9 s n = BitVec.ofBool (s.sprXmsb.getLsbD n.toNat) ++ s.sprX[n.toNat] := by
  have hbit : s.sprXmsb.extractLsb' n.toNat 1 = BitVec.ofBool (s.sprXmsb.getLsbD n.toNat) := by
    ext i hi
    obtain rfl : i = 0 := by omega
    simp
  rw [x9, hbit, getCell]

theorem x9_toNat (s : State) (n : Slot) :
    (x9 s n).toNat = (s.sprXmsb.getLsbD n.toNat).toNat * 256 + s.sprX[n.toNat].toNat := by
  rw [x9_eq, append_toNat, BitVec.toNat_ofBool]
  norm_num

/-- Settles O40: the x write moves the low byte under the old lane, the y write the y, the read nothing
(92_eei_decisions.md D10). -/
theorem sprPosIntermediatePositions : Obligations.SprPosIntermediatePositions := by
  unfold Obligations.SprPosIntermediatePositions
  rintro s n x y ⟨hm, -, -⟩ hp
  refine ⟨_, _, _, exec_sprPos_writeX hm n x y (by simp [hp]) (by simp [hp]) (by simp [hp]),
    exec_sprPos_writeY (by exact hm) n x y rfl, exec_sprPos_readXmsb (by exact hm) n x y rfl, ?_⟩
  simp [x9, y8, getCell]

/-- The bus actions of `SPR_POS n, x, y` (41_sprite_engine.md R103). -/
def sprPosActions (n : Slot) (x y : Half) : List BusAction :=
  [.store (.x n) fun _ => posLow (clampNeg x), .store (.y n) fun _ => posLow (clampNeg y), .load .xmsb,
    .store .xmsb fun v => assignBit v n (posHigh (clampNeg x))]

theorem performs_sprPosActions (c : Config) (n : Slot) (x y : Half) :
    Performs c (.sprPos n.toNat x y) (sprPosActions n x y) := .sprPos n x y

/-- What the four bus actions make of the position registers, whatever RASTER does in between. -/
theorem performed_sprPosActions (n : Slot) (x y : Half) (s : State) :
    (performed (sprPosActions n x y) s).res = s.res ∧
      (performed (sprPosActions n x y) s).sprX = s.sprX.set n.toNat (posLow (clampNeg x)) ∧
      (performed (sprPosActions n x y) s).sprY = s.sprY.set n.toNat (posLow (clampNeg y)) ∧
      (performed (sprPosActions n x y) s).sprXmsb = assignBit s.sprXmsb n (posHigh (clampNeg x)) := by
  simp [performed, sprPosActions, BusAction.effect, afterWrite, afterRead, setCell, readCell, readSpr,
    SprCell.isColour, getCell]

/-- A whole `SPR_POS`, run by the machine (41_sprite_engine.md R103). -/
theorem run_sprPos {s : State} {n : Slot} {x y : Half} {rest : List CmdWord} (hc : ConfigWf s.cfg)
    (hb : s.busy = false) (hh : s.host = encode (.sprPos n.toNat x y) :: rest) :
    ∃ t : State, Host.Core.run Sys2Proof.core 4 s = .next t ∧ t.busy = false ∧ t.host = rest ∧ t.res = s.res ∧
      t.sprX = s.sprX.set n.toNat (posLow (clampNeg x)) ∧ t.sprY = s.sprY.set n.toNat (posLow (clampNeg y)) ∧
      t.sprXmsb = assignBit s.sprXmsb n (posHigh (clampNeg x)) := by
  obtain ⟨t, hrun, hbusy, -, hhost, hview⟩ := runPerforms_command hc hb hh (performs_sprPosActions s.cfg n x y)
  have hregs := performed_sprPosActions n x y (busView s)
  rw [← hview] at hregs
  exact ⟨t, hrun, hbusy, hhost, hregs⟩

/-- Settles O39: the device position is read off the registers the run leaves. -/
theorem sprPosGivesTheDevicePosition : Obligations.SprPosGivesTheDevicePosition := by
  unfold Obligations.SprPosGivesTheDevicePosition
  intro s n x y cx cy rest hc hb hh hcx hcy
  obtain rfl : cx = clampNeg x := hcx
  obtain rfl : cy = clampNeg y := hcy
  obtain ⟨t, hrun, hbusy, hhost, hres, hx, hy, hmsb⟩ := run_sprPos hc hb hh
  have hlane : ∀ m : Slot, t.sprXmsb.getLsbD m.toNat =
      if m = n then posHigh (clampNeg x) else s.sprXmsb.getLsbD m.toNat := by
    intro m
    rw [hmsb, getLsbD_assignBit _ _ _ m.isLt]
    simp only [BitVec.toNat_inj]
  have hother : ∀ {m : Slot}, m ≠ n → n.toNat ≠ m.toNat := fun hne e => hne (BitVec.eq_of_toNat_eq e.symm)
  refine ⟨t, hrun, hbusy, hhost, hres, ?_, ?_, fun m hne => ⟨?_, ?_⟩⟩
  · rw [x9_toNat, hlane, if_pos rfl]
    simp only [hx, Vector.getElem_set_self, posLow_toNat]
    exact position_toNat _
  · simp only [y8, getCell, hy, Vector.getElem_set_self, posLow_toNat]
  · rw [x9_eq, x9_eq, hlane, if_neg hne]
    simp only [hx, Vector.getElem_set_ne _ _ (hother hne)]
  · simp only [y8, getCell, hy, Vector.getElem_set_ne _ _ (hother hne)]

/-! ### The pointer byte and its data block (10_state.md R23, R24) -/

section
variable {s : State} (hm : MapWf s.cfg)
include hm

theorem exec_sprBlk_slot (n : Slot) (block : Byte) :
    exec (.sprBlk n.toNat block) s =
      .next (complete (.sprBlk n.toNat block) (afterWrite (eaPtr s.cfg n) (.ptr n) block s)) := by
  rw [exec_sprBlk n.isLt, slot_ofNat_toNat, withWrite_of_cellAt (cellAt_eaPtr hm n)]

/-- The pointer byte written, and no other byte of memory. -/
theorem read_mem_setCell_ptr (hwf : Memory.Wf s.mem) (n : Slot) (block : Byte) (m : Nat) :
    Memory.read (setCell s (.ptr n) block).mem m =
      if m = s.cfg.screenBase.toNat + s.cfg.ptrOffset.toNat + n.toNat then block else Memory.read s.mem m := by
  rw [← aPtrBase_toNat hm, ← eaPtr_toNat hm]
  split
  · next h => rw [h]; exact Memory.read_write_same hwf.1 _ _
  · next h => exact read_mem_setCell s block h

end

/-- The data block of the slot whose pointer byte was written (41_sprite_engine.md R102). -/
theorem dataBlock_sprBlk {s : State} (hwf : Memory.Wf s.mem) (i : Instr) (addr : Addr) (n : Slot) (block : Byte) :
    dataBlock (complete i (afterWrite addr (.ptr n) block s)) n = s.cfg.bankBase + 64 * block.setWidth 16 := by
  rw [dataBlock, afterWrite, getCell_complete, getCell_record, getCell_setCell_same hwf]
  rfl

/-- Settles O18: `SPR_BLK` is one bus write of the slot's pointer byte. -/
theorem sprBlkWritesThePointerByte : Obligations.SprBlkWritesThePointerByte := by
  unfold Obligations.SprBlkWritesThePointerByte
  rintro s n block ⟨hm, -, -⟩ hwf
  rw [← byteField_eq_append]
  refine ⟨decode_of_encode_eq (decide_eq_true n.isLt) (by rw [encode, slot_ofNat_toNat]), _,
    exec_sprBlk_slot hm n block, ?_, read_mem_setCell_ptr hm hwf n block, getCell_setCell_same hwf (.ptr n) block,
    dataBlock_sprBlk hwf _ _ n block⟩
  rw [complete_afterWrite]
  rfl

/-- Inside the bank, as numbers (41_sprite_engine.md R110). -/
theorem inBank_iff (c : Config) (pointer : Addr) :
    inBank c pointer = true ↔
      c.bankBase.toNat ≤ pointer.toNat ∧ pointer.toNat - c.bankBase.toNat < 16384 := by
  have := pointer.isLt
  have := c.bankBase.isLt
  simp only [inBank, Bool.and_eq_true, BitVec.ule_iff_le, BitVec.ult_iff_lt, BitVec.le_def, BitVec.lt_def,
    BitVec.toNat_sub, BitVec.reduceToNat]
  omega

/-- The block index of a pointer inside the bank: its distance divided by 64, rounded down (92_eei_decisions.md D14). -/
theorem blockIndex_toNat {c : Config} {pointer : Addr} (h : inBank c pointer = true) :
    (blockIndex c pointer).toNat = (pointer.toNat - c.bankBase.toNat) / 64 := by
  have hin := (inBank_iff c pointer).1 h
  have := pointer.isLt
  simp only [blockIndex, extract_toNat, BitVec.toNat_sub]
  omega

theorem exec_blkAddr_inBank {s : State} {pointer : Addr} (h : inBank s.cfg pointer = true) :
    exec (.blkAddr pointer) s = .next { s with
      res := (blockIndex s.cfg pointer).setWidth 16, busy := false, ph := .idle
      hist := .completed (.blkAddr pointer) :: s.hist } := by
  simp only [exec, execBlkAddr, if_pos h, complete]

theorem exec_blkAddr_outside {s : State} {pointer : Addr} (h : ¬ inBank s.cfg pointer = true) :
    exec (.blkAddr pointer) s = .next { s with
      res := (Config.freeBlock s.draws).setWidth 16, draws := s.draws + 1, busy := false, ph := .idle
      hist := .completed (.blkAddr pointer) :: s.hist } := by
  simp only [exec, execBlkAddr, if_neg h, complete]

/-- Settles O22: whether the pointer is in the bank decides, and there the index is the quotient. -/
theorem blkAddrDividesByBlockSize : Obligations.BlkAddrDividesByBlockSize := by
  unfold Obligations.BlkAddrDividesByBlockSize
  intro s pointer
  refine ⟨decode_encode (i := .blkAddr pointer) rfl, fun hl hu => ?_, fun hout => ⟨_, exec_blkAddr_outside ?_⟩⟩
  · have hin := (inBank_iff s.cfg pointer).2 ⟨hl, hu⟩
    rw [exec_blkAddr_inBank hin, ← blockIndex_toNat hin, BitVec.ofNat_toNat]
  · rw [inBank_iff]
    omega

/-- No data block wraps: the bank lies inside the address space (20_memory.md R43). -/
theorem dataBlock_toNat {c : Config} (hbank : BankWf c) (block : Byte) :
    (c.bankBase + 64 * block.setWidth 16).toNat = c.bankBase.toNat + 64 * block.toNat := by
  obtain ⟨hsize, -, htop, -⟩ := hbank
  have := block.isLt
  simp only [BitVec.toNat_add, BitVec.toNat_mul, BitVec.toNat_setWidth, BitVec.reduceToNat]
  omega

/-- Which pointer the data block of a block index is, as numbers (30_encoding.md R75). -/
theorem dataBlock_eq_iff {c : Config} (hbank : BankWf c) (block : Byte) (pointer : Addr) :
    c.bankBase + 64 * block.setWidth 16 = pointer ↔ c.bankBase.toNat + 64 * block.toNat = pointer.toNat := by
  rw [← BitVec.toNat_inj, dataBlock_toNat hbank]

/-- The byte `BLK_ADDR` zero-extends into `RES` is its low byte (41_sprite_engine.md R110). -/
theorem extract_setWidth_byte (d : Byte) : (d.setWidth 16).extractLsb' 0 8 = d := lowByte_byteField d

/-- Settles O42: the data block of a byte is a multiple of 64 above the base, below 16384, whatever the byte is. -/
theorem blkAddrThenSprBlkRoundTrip : Obligations.BlkAddrThenSprBlkRoundTrip := by
  unfold Obligations.BlkAddrThenSprBlkRoundTrip
  rintro s n pointer ⟨hm, hbank, -⟩ hwf
  by_cases hin : inBank s.cfg pointer = true
  · refine ⟨_, _, exec_blkAddr_inBank hin, exec_sprBlk_slot (by exact hm) n _, ?_⟩
    rw [dataBlock_sprBlk (by exact hwf), extract_setWidth_byte, dataBlock_eq_iff hbank, blockIndex_toNat hin]
    rw [inBank_iff] at hin
    omega
  · refine ⟨_, _, exec_blkAddr_outside hin, exec_sprBlk_slot (by exact hm) n _, ?_⟩
    rw [dataBlock_sprBlk (by exact hwf), extract_setWidth_byte, dataBlock_eq_iff hbank]
    have := (Config.freeBlock s.draws).isLt
    rw [inBank_iff] at hin
    omega

end Sys2Proof.Machine
end

section
/-! SUPPORT. Proofs about the frame scheduler (42_frame_scheduler.md): the line value of a sample, `RLINE` and `WAITF`
SEQ step by SEQ step, why `WAITF` waits, RASTER's ticks, the blanking interval, and the commit windows. -/

namespace Sys2Proof.Machine

/-! ### The combination of a sample's two bytes (42_frame_scheduler.md R121) -/

theorem extract_bit_eq_ofBool {w : Nat} (x : BitVec w) (i : Nat) : x.extractLsb' i 1 = BitVec.ofBool (x.getLsbD i) := by
  ext j hj
  obtain rfl : j = 0 := by omega
  simp

theorem combineLine_nine (hi lo : Byte) : combineLine .nine hi lo = BitVec.ofBool (hi.getLsbD 7) ++ lo := by
  rw [combineLine, extract_bit_eq_ofBool]

/-- Shifted right by 7, only bit 7 of a byte is left. -/
theorem shiftRight_seven (hi : Byte) : hi >>> 7 = (BitVec.ofBool (hi.getLsbD 7)).setWidth 8 := by
  rw [← extract_bit_eq_ofBool]
  have := hi.isLt
  apply BitVec.eq_of_toNat_eq
  rw [BitVec.toNat_ushiftRight, BitVec.toNat_setWidth, extract_toNat, Nat.shiftRight_eq_div_pow]
  omega

theorem combineLine_orlow (hi lo : Byte) :
    combineLine .orlow hi lo = (lo ||| (BitVec.ofBool (hi.getLsbD 7)).setWidth 8).setWidth 9 := by
  rw [combineLine, shiftRight_seven]

/-- Bits 6:0 of the high byte never matter. -/
theorem combineLine_congr {hi hi' : Byte} (h : hi'.getLsbD 7 = hi.getLsbD 7) (mode : Combine) (lo : Byte) :
    combineLine mode hi' lo = combineLine mode hi lo := by
  cases mode
  · rw [combineLine_nine, combineLine_nine, h]
  · rw [combineLine_orlow, combineLine_orlow, h]
  · rfl

/-- The mask 0x80 keeps bit 7 of the high byte. -/
theorem setWidth_and_0x80 (hi : Byte) : hi.setWidth 9 &&& 0x80 = if hi.getLsbD 7 then 0x80#9 else 0 := by
  have hmask := BitVec.and_twoPow (hi.setWidth 9) 7
  rwa [BitVec.getLsbD_setWidth, decide_eq_true (by decide : 7 < 9), Bool.true_and] at hmask

/-- Settles O27: bit 7 of the high byte decides each formula. -/
theorem combineFormulas : Obligations.CombineFormulas := by
  unfold Obligations.CombineFormulas
  refine fun hi lo => ⟨?_, ?_, rfl, fun mode hi' h => combineLine_congr h mode lo⟩
  · rw [combineLine_nine, setWidth_and_0x80, BitVec.append_def]
    cases hi.getLsbD 7
    · rfl
    · rfl
  · rw [combineLine_orlow, setWidth_and_0x80, BitVec.setWidth_or, BitVec.or_comm]
    cases hi.getLsbD 7
    · rfl
    · rfl

/-! ### The view of a line (10_state.md R32, R33)

The high byte shows bit 8 of the line `first`, the low byte the low bits of the line `second`; the two are the same line
in an untorn sample. -/

theorem lineBit8_toNat (line : Line) : (line.extractLsb' 8 1).toNat = line.toNat / 256 := by
  have := line.isLt
  rw [extract_toNat]
  omega

theorem lineLow8_toNat (line : Line) : (line.extractLsb' 0 8).toNat = line.toNat % 256 := by
  simp

theorem combineLine_nine_toNat (first second : Line) (c : BitVec 7) :
    (combineLine .nine (first.extractLsb' 8 1 ++ c) (second.extractLsb' 0 8)).toNat =
      first.toNat / 256 * 256 + second.toNat % 256 := by
  have := first.isLt
  have := c.isLt
  rw [combineLine, append_toNat, extract_toNat, append_toNat, lineBit8_toNat, lineLow8_toNat]
  omega

theorem combineLine_orlow_toNat (first second : Line) (c : BitVec 7) :
    (combineLine .orlow (first.extractLsb' 8 1 ++ c) (second.extractLsb' 0 8)).toNat =
      (second.toNat % 256) ||| (first.toNat / 256) := by
  have hbit : (first.extractLsb' 8 1 ++ c).toNat >>> 7 = first.toNat / 256 := by
    have := c.isLt
    rw [append_toNat, lineBit8_toNat, Nat.shiftRight_eq_div_pow]
    omega
  rw [combineLine, BitVec.toNat_setWidth_of_le (by decide), BitVec.toNat_or, BitVec.toNat_ushiftRight, hbit,
    lineLow8_toNat]

theorem combineLine_low8_toNat (hi : Byte) (second : Line) :
    (combineLine .low8 hi (second.extractLsb' 0 8)).toNat = second.toNat % 256 := by
  rw [combineLine, BitVec.toNat_setWidth_of_le (by decide), lineLow8_toNat]

theorem combineLine_nine_of_untorn (line : Line) (c : BitVec 7) :
    combineLine .nine (line.extractLsb' 8 1 ++ c) (line.extractLsb' 0 8) = line := by
  apply BitVec.eq_of_toNat_eq
  rw [combineLine_nine_toNat]
  omega

/-- Settles O28: both views are of the one line. -/
theorem untornSampleShowsTheLine : Obligations.UntornSampleShowsTheLine := by
  unfold Obligations.UntornSampleShowsTheLine
  exact fun line c => ⟨combineLine_nine_of_untorn line c, combineLine_orlow_toNat line line c,
    combineLine_low8_toNat _ line⟩

theorem nextLine_toNat {lines : Nat} (hpos : 0 < lines) (hmax : lines ≤ 512) (line : Line) :
    (nextLine lines line).toNat = (line.toNat + 1) % lines := by
  have := Nat.mod_lt (line.toNat + 1) hpos
  rw [nextLine, BitVec.toNat_ofNat, Nat.mod_eq_of_lt (by omega)]

/-- Settles O29: bit 8 is that of the line at the high read, the low byte that of the line at the low read. -/
theorem tornSampleTable : Obligations.TornSampleTable := by
  unfold Obligations.TornSampleTable
  intro line c hline
  have h255 : line = 255 ↔ line.toNat = 255 := BitVec.toNat_inj.symm
  have h311 : line = 311 ↔ line.toNat = 311 := BitVec.toNat_inj.symm
  simp only [combineLine_nine_toNat, nextLine_toNat (by decide : 0 < 312) (by decide), h255, h311]
  constructor
  · split_ifs <;> omega
  · split_ifs <;> omega

/-! ### The untorn sample of a line, in each mode (42_frame_scheduler.md R123, R131) -/

/-- The line value of an untorn sample; the seven low bits of the high byte, which never matter, taken as 0. -/
def untornSample (mode : Combine) (line : Line) : Line :=
  combineLine mode (line.extractLsb' 8 1 ++ 0#7) (line.extractLsb' 0 8)

theorem combineLine_eq_untornSample (mode : Combine) (line : Line) (c : BitVec 7) :
    combineLine mode (line.extractLsb' 8 1 ++ c) (line.extractLsb' 0 8) = untornSample mode line :=
  combineLine_congr (by rw [BitVec.getLsbD_append, BitVec.getLsbD_append]; rfl) mode _

theorem untornSample_nine (line : Line) : untornSample .nine line = line := combineLine_nine_of_untorn line 0

/-- Every mode shows a line below 256. -/
theorem untornSample_of_lt (mode : Combine) {line : Line} (h : line.toNat < 256) : untornSample mode line = line := by
  cases mode
  · exact untornSample_nine line
  · apply BitVec.eq_of_toNat_eq
    rw [untornSample, combineLine_orlow_toNat, Nat.mod_eq_of_lt h, Nat.div_eq_of_lt h, Nat.or_zero]
  · apply BitVec.eq_of_toNat_eq
    rw [untornSample, combineLine_low8_toNat, Nat.mod_eq_of_lt h]

/-- An 8-bit mode shows a line past 255 as a line at most 255 lower. -/
theorem untornSample_le_of_ge {mode : Combine} (hmode : mode ≠ .nine) {line : Line} (h : 256 ≤ line.toNat) :
    (untornSample mode line).toNat ≤ line.toNat - 255 := by
  have := line.isLt
  cases mode
  · exact absurd rfl hmode
  · rw [untornSample, combineLine_orlow_toNat]
    have hhalf := Nat.or_div_two (a := line.toNat % 256) (b := line.toNat / 256)
    rw [show line.toNat / 256 = 1 by omega] at hhalf ⊢
    rw [show 1 / 2 = 0 from rfl, Nat.or_zero] at hhalf
    omega
  · rw [untornSample, combineLine_low8_toNat]
    omega

section
variable {c : Config} (hc : ConfigWf c)
include hc

/-- When an untorn sample is short of `T_BLANK`: before `T_BLANK`, and in the 8-bit modes past line 255. -/
theorem untornSample_lt_tBlank_iff {line : Line} (hline : line.toNat < c.lines) :
    (untornSample c.combine line).toNat < c.tBlank ↔
      line.toNat < c.tBlank ∨ (c.combine ≠ .nine ∧ 256 ≤ line.toNat) := by
  obtain ⟨-, -, -, -, -, -, -, -, -, h8⟩ := hc
  by_cases hmode : c.combine = .nine
  · simp [hmode, untornSample_nine]
  · obtain ⟨htop, hlines⟩ := h8 hmode
    rcases lt_or_ge line.toNat 256 with h | h
    · rw [untornSample_of_lt _ h]
      omega
    · have := untornSample_le_of_ge hmode h
      exact ⟨fun _ => .inr ⟨hmode, h⟩, fun _ => by omega⟩

/-- An untorn sample at or past `T_BLANK` means a line at or past it, and at most 255 in the 8-bit modes. -/
theorem line_of_tBlank_le_untornSample {line : Line} (hline : line.toNat < c.lines)
    (h : c.tBlank ≤ (untornSample c.combine line).toNat) :
    c.tBlank ≤ line.toNat ∧ (c.combine ≠ .nine → line.toNat ≤ 255) := by
  rw [← not_lt, untornSample_lt_tBlank_iff hc hline, not_or] at h
  obtain ⟨hblank, hpast⟩ := h
  exact ⟨not_lt.1 hblank, fun hmode => by_contra fun hle => hpast ⟨hmode, by omega⟩⟩

end

/-- Settles O33, by where an untorn sample is short of `T_BLANK`. -/
theorem eightBitSamplePastLine255NeverCompletes : Obligations.EightBitSamplePastLine255NeverCompletes := by
  unfold Obligations.EightBitSamplePastLine255NeverCompletes
  intro c line ctrl hc hmode hline
  simp only [combineLine_eq_untornSample]
  exact ⟨fun h => (untornSample_lt_tBlank_iff hc hline).2 (.inr ⟨hmode, h⟩),
    fun h => by rw [untornSample_of_lt _ h, untornSample_of_lt _ h]⟩

/-! ### The two reads of a sample, and the SEQ steps of `RLINE` and `WAITF` (42_frame_scheduler.md R122, R124) -/

section
variable {s : State}

theorem afterFirst_of_hiFirst (h : s.cfg.readOrder = .hiFirst) :
    afterFirst s = { s with
      hi := s.line.extractLsb' 8 1 ++ Config.freeCtrlHi s.draws, draws := s.draws + 1
      hist := .bus .read s.cfg.aRasterHi (s.line.extractLsb' 8 1 ++ Config.freeCtrlHi s.draws) s.line s.frame ::
        s.hist } := by
  simp only [afterFirst, h]
  rfl

theorem afterFirst_of_loFirst (h : s.cfg.readOrder = .loFirst) :
    afterFirst s = { s with
      lo := s.line.extractLsb' 0 8
      hist := .bus .read s.cfg.aRasterLo (s.line.extractLsb' 0 8) s.line s.frame :: s.hist } := by
  simp only [afterFirst, h]
  rfl

theorem afterSecond_of_hiFirst (h : s.cfg.readOrder = .hiFirst) :
    afterSecond s = { s with
      lo := s.line.extractLsb' 0 8, l := combineLine s.cfg.combine s.hi (s.line.extractLsb' 0 8)
      hist := .bus .read s.cfg.aRasterLo (s.line.extractLsb' 0 8) s.line s.frame :: s.hist } := by
  simp only [afterSecond, h]
  rfl

theorem afterSecond_of_loFirst (h : s.cfg.readOrder = .loFirst) :
    afterSecond s = { s with
      hi := s.line.extractLsb' 8 1 ++ Config.freeCtrlHi s.draws, draws := s.draws + 1
      l := combineLine s.cfg.combine (s.line.extractLsb' 8 1 ++ Config.freeCtrlHi s.draws) s.lo
      hist := .bus .read s.cfg.aRasterHi (s.line.extractLsb' 8 1 ++ Config.freeCtrlHi s.draws) s.line s.frame ::
        s.hist } := by
  simp only [afterSecond, h]
  rfl

end

/-- Settles O23: the read order decides which register each read is of. -/
theorem rlineReadsTwoRegisters : Obligations.RlineReadsTwoRegisters := by
  unfold Obligations.RlineReadsTwoRegisters
  rintro s ⟨hm, -, -⟩
  refine ⟨fun ho => ⟨fun hp => ⟨Config.freeCtrlHi s.draws, ?_⟩, fun hp => ?_⟩,
    fun ho => ⟨fun hp => ?_, fun hp => ⟨Config.freeCtrlHi s.draws, ?_⟩⟩⟩
  · rw [exec_rline_first hp hm, afterFirst_of_hiFirst ho]
    rfl
  · rw [exec_rline_second hp hm, afterSecond_of_hiFirst ho]
    rfl
  · rw [exec_rline_first hp hm, afterFirst_of_loFirst ho]
    rfl
  · rw [exec_rline_second hp hm, afterSecond_of_loFirst ho]
    rfl

/-- Settles O30: the sample of the two reads, and the line itself when untorn in mode `NINE`. -/
theorem rlineReturnsTheSample : Obligations.RlineReturnsTheSample := by
  unfold Obligations.RlineReturnsTheSample
  rintro s later ⟨hm, -, -⟩ hp
  obtain ⟨hcfg, -, -, -, -, -, -, ⟨c, hhi⟩, hlo⟩ := afterFirst_spec s
  obtain ⟨t, ht⟩ : ∃ t : State, t = { goto 1 (afterFirst s) with line := later } := ⟨_, rfl⟩
  have htcfg : t.cfg = s.cfg := by rw [ht, ← hcfg]; rfl
  have htline : t.line = later := by rw [ht]
  have htph : t.ph = .step 1 := by rw [ht]; rfl
  obtain ⟨c', hl⟩ := afterSecond_l (s := t) (first := s.line) (c := c)
    (by rw [htcfg, ht]; exact hhi) (by rw [htcfg, ht]; exact hlo)
  rw [htcfg, htline] at hl
  refine ⟨_, complete .rline { afterSecond t with res := (afterSecond t).l.setWidth 16 }, exec_rline_first hp hm, ?_,
    rfl, ⟨c', ?_⟩, ?_⟩
  · rw [← ht, exec_rline_second htph (htcfg ▸ hm)]
  · exact congrArg (BitVec.setWidth 16) hl
  · rintro hnine rfl
    refine congrArg (BitVec.setWidth 16) (hl.trans ?_)
    rw [hnine]
    split
    · exact combineLine_nine_of_untorn s.line c'
    · exact combineLine_nine_of_untorn s.line c'

/-- The first read of a sample, in each loop: a phase that is not one of `WAITF`'s is taken as `W_TEST` (log 12). -/
theorem exec_waitf_first_of_loop {s : State} {w : WaitPhase} (hm : MapWf s.cfg)
    (hp : s.ph = .wait w .s0 ∨ (w = .test ∧ ∀ u sub, s.ph ≠ .wait u sub)) :
    exec .waitf s = .next (gotoWait w .s1 (afterFirst s)) := by
  rcases hp with hp | ⟨rfl, hp⟩
  · rw [exec_waitf_first (by simp [hp]) hm, hp, waitPhaseOf]
  · rw [exec_waitf_first (fun u => hp u .s1) hm]
    cases hph : s.ph with
    | wait u sub => exact absurd hph (hp u sub)
    | idle => rfl
    | step k => rfl

/-- Settles O24: the read order decides which register the first read is of. -/
theorem waitfFirstRead : Obligations.WaitfFirstRead := by
  unfold Obligations.WaitfFirstRead
  rintro s w ⟨hm, -, -⟩ hp
  rw [exec_waitf_first_of_loop hm hp]
  refine ⟨fun ho => ⟨Config.freeCtrlHi s.draws, ?_⟩, fun ho => ?_⟩
  · rw [afterFirst_of_hiFirst ho]
    rfl
  · rw [afterFirst_of_loFirst ho]
    rfl

/-- `WAITF` completes after a sample: it is in `W_PHASE2` and the sample reaches `T_BLANK`. -/
def completesWait (w : WaitPhase) (u : State) : Bool := decide (w = .phase2) && decide (u.cfg.tBlank ≤ u.l.toNat)

/-- The loop `WAITF` goes on in after a sample that does not complete it. -/
def loopAfterSample (w : WaitPhase) (u : State) : WaitPhase :=
  match w with
  | .test => if u.cfg.tLate < u.l.toNat then .phase1 else .phase2
  | .phase1 => if u.l.toNat < u.cfg.tLow then .phase2 else .phase1
  | .phase2 => .phase2

theorem completesWait_iff (w : WaitPhase) (u : State) :
    completesWait w u = true ↔ w = .phase2 ∧ u.cfg.tBlank ≤ u.l.toNat := by
  simp [completesWait]

theorem waitDecide_of_completes {w : WaitPhase} {u : State} (h : completesWait w u = true) :
    waitDecide w u = complete .waitf u :=
  (waitDecide_eq w u).trans (if_pos ((completesWait_iff w u).1 h))

theorem waitDecide_of_goes_on {w : WaitPhase} {u : State} (h : completesWait w u = false) :
    waitDecide w u = gotoWait (loopAfterSample w u) .s0 u :=
  (waitDecide_eq w u).trans (if_neg fun hdone => by simp [(completesWait_iff w u).2 hdone] at h)

/-- Where `WAITF` goes after a sample, field by field. -/
theorem waitDecide_fields (w : WaitPhase) (u : State) :
    waitDecide w u = { u with
      busy := !completesWait w u, ph := (waitDecide w u).ph
      hist := if completesWait w u then .completed .waitf :: u.hist else u.hist } := by
  cases h : completesWait w u with
  | false => rw [waitDecide_of_goes_on h]; rfl
  | true => rw [waitDecide_of_completes h]; rfl

theorem waitDecide_ph (w : WaitPhase) (u : State) :
    (waitDecide w u).ph = if completesWait w u then .idle else .wait (loopAfterSample w u) .s0 := by
  cases h : completesWait w u with
  | false => rw [waitDecide_of_goes_on h]; rfl
  | true => rw [waitDecide_of_completes h]; rfl

/-- Settles O25: the read order decides which register the second read is of, and the combined sample where `WAITF`
goes. -/
theorem waitfSecondReadAndCompare : Obligations.WaitfSecondReadAndCompare := by
  unfold Obligations.WaitfSecondReadAndCompare
  rintro s w ⟨hm, -, -⟩ hp
  have hexec := exec_waitf_second hp hm
  have hfields := waitDecide_fields w (afterSecond s)
  have hph := waitDecide_ph w (afterSecond s)
  have hdraws := waitDecide_draws w (afterSecond s)
  rw [← hdraws] at hfields
  cases ho : s.cfg.readOrder with
  | hiFirst =>
    rw [afterSecond_of_hiFirst ho] at hexec hfields hph hdraws
    exact ⟨_, _, _, _, _, _, hexec, fun _ => ⟨rfl, rfl, hdraws, rfl⟩, nofun, rfl, rfl, hfields, hph⟩
  | loFirst =>
    rw [afterSecond_of_loFirst ho] at hexec hfields hph hdraws
    exact ⟨_, _, _, _, _, _, hexec, nofun, fun _ => ⟨rfl, ⟨_, rfl⟩, hdraws, rfl⟩, rfl, rfl, hfields, hph⟩

/-! ### When `WAITF` completes, and when it cannot (42_frame_scheduler.md R125, R127) -/

/-- A step of `WAITF` that completes it is the second read of a sample in `W_PHASE2` that reaches `T_BLANK`. -/
theorem exec_waitf_completes {s t : State} (hm : MapWf s.cfg) (h : exec .waitf s = .next t) (hb : t.busy = false) :
    s.ph = .wait .phase2 .s1 ∧ t = complete .waitf (afterSecond s) ∧ s.cfg.tBlank ≤ (afterSecond s).l.toNat := by
  by_cases hp : ∃ w, s.ph = .wait w .s1
  · obtain ⟨w, hp⟩ := hp
    obtain ⟨hcfg, -⟩ := afterSecond_spec s
    rw [exec_waitf_second hp hm] at h
    cases hdone : completesWait w (afterSecond s) with
    | false =>
      rw [waitDecide_of_goes_on hdone] at h
      cases h
      cases hb
    | true =>
      rw [waitDecide_of_completes hdone] at h
      cases h
      obtain ⟨rfl, hblank⟩ := (completesWait_iff _ _).1 hdone
      exact ⟨hp, rfl, hcfg ▸ hblank⟩
  · rw [exec_waitf_first (not_exists.1 hp) hm] at h
    cases h
    cases hb

/-- Settles O31: in an untorn sample the combined value is that of the present line. -/
theorem waitfCompletesInTheBlankingWindow : Obligations.WaitfCompletesInTheBlankingWindow := by
  unfold Obligations.WaitfCompletesInTheBlankingWindow
  intro s t c hc hline h hb
  obtain ⟨hp, rfl, hblank⟩ := exec_waitf_completes hc.1 h hb
  refine ⟨hp, rfl, hblank, fun hhi hlo => ?_⟩
  obtain ⟨c', hl⟩ := afterSecond_l_of_untorn hhi hlo
  rw [hl, combineLine_eq_untornSample] at hblank
  exact line_of_tBlank_le_untornSample hc hline hblank

/-- Settles O32: `T_LATE` is below `T_BLANK`. -/
theorem lateTestSampleEntersPhaseOne : Obligations.LateTestSampleEntersPhaseOne := by
  unfold Obligations.LateTestSampleEntersPhaseOne
  rintro s t ⟨hm, -, hlate, -⟩ hp h hblank
  obtain ⟨hcfg, -⟩ := afterSecond_spec s
  rw [exec_waitf_second hp hm] at h
  cases h
  rw [waitDecide_l] at hblank
  have hpast : (afterSecond s).cfg.tLate < (afterSecond s).l.toNat := by
    rw [hcfg]
    omega
  rw [waitDecide_of_goes_on rfl, loopAfterSample, if_pos hpast]
  exact ⟨rfl, rfl⟩

/-- Unless a sample in `W_PHASE2` reaches `T_BLANK`, `WAITF` goes on; and it goes on in `W_PHASE2` only if the sample is
short of `T_BLANK`, as `T_LATE` and `T_LOW` are no higher. -/
theorem waitDecide_of_short {w : WaitPhase} {u : State} (hc : ConfigWf u.cfg)
    (h : w = .phase2 → u.l.toNat < u.cfg.tBlank) :
    ∃ w', waitDecide w u = gotoWait w' .s0 u ∧ (w' = .phase2 → u.l.toNat < u.cfg.tBlank) := by
  obtain ⟨-, -, hlate, -, hlow, -⟩ := hc
  have hgo : completesWait w u = false := by
    rw [← Bool.not_eq_true, completesWait_iff]
    exact fun ⟨hw, hblank⟩ => absurd (h hw) (not_lt.2 hblank)
  refine ⟨_, waitDecide_of_goes_on hgo, fun hw' => ?_⟩
  cases w with
  | test =>
    have : ¬ u.cfg.tLate < u.l.toNat := fun hl => by simp [loopAfterSample, hl] at hw'
    omega
  | phase1 =>
    have : u.l.toNat < u.cfg.tLow := by_contra fun hl => by simp [loopAfterSample, hl] at hw'
    omega
  | phase2 => exact h rfl

/-! ### `WAITF` in progress with untorn samples -/

/-- `WAITF` is about to take a sample, and if that is in `W_PHASE2`, an untorn sample of the present line is short of
`T_BLANK`. -/
def AwaitsSample (s : State) : Prop :=
  s.busy = true ∧ decode (latchedWord s) = .ok .waitf ∧
    ∃ w, s.ph = .wait w .s0 ∧ (w = .phase2 → (untornSample s.cfg.combine s.line).toNat < s.cfg.tBlank)

theorem decode_encode_waitf : decode (encode .waitf) = .ok .waitf := decode_encode (i := .waitf) rfl

/-- `WAITF` is accepted into `W_TEST` (10_state.md R14). -/
theorem awaitsSample_accept (rest : List CmdWord) (s : State) :
    AwaitsSample (accept (encode .waitf) .waitf rest s) :=
  ⟨rfl, by rw [latchedWord_accept decode_encode_waitf, decode_encode_waitf], .test,
    startPhase_of_decode decode_encode_waitf, nofun⟩

/-- The two steps of an untorn sample: two bus reads, and neither the line nor `RES` moves. -/
theorem AwaitsSample.run_sample {s : State} (h : AwaitsSample s) (hc : ConfigWf s.cfg) {ks : List Nat}
    (hs : s.sched = 0 :: ks) :
    ∃ t, Host.Core.run Sys2Proof.core 2 s = .next (rasterTicks t) ∧ AwaitsSample t ∧ t.cfg = s.cfg ∧
      t.line = s.line ∧ t.sched = ks ∧ t.host = s.host ∧ t.res = s.res ∧
      (busTrace t.hist).length = (busTrace s.hist).length + 2 := by
  obtain ⟨hb, hd, w, hp, hshort⟩ := h
  obtain ⟨a, b, c, hexec, hstep, hcfg, hline, hsched, hhost, hlatch, hres, hbus, hl⟩ :=
    step_untorn_sample hc hp hs hd
  rw [combineLine_eq_untornSample] at hl
  obtain ⟨w', hgo, hshort'⟩ := waitDecide_of_short (w := w) (u := b) (hcfg ▸ hc) (by rwa [hl, hcfg])
  have hfirst : step s = .next (rasterTicks a) := by rw [step_busy hc hb hd, hexec, thenTicks_next]
  have hrun : Host.Core.run Sys2Proof.core 2 s = .next (rasterTicks (gotoWait w' .s0 b)) := by
    rw [run_of_step hfirst, run_of_step hstep, hgo]
    rfl
  have hawaits : AwaitsSample (gotoWait w' .s0 b) :=
    ⟨rfl, (congrArg decode hlatch).trans hd, w', rfl,
      by simpa only [gotoWait_cfg, gotoWait_line, hl, hcfg, hline] using hshort'⟩
  exact ⟨_, hrun, hawaits, hcfg, hline, hsched, hhost, hres, hbus⟩

/-- RASTER's ticks keep `WAITF` waiting if they do not bring an untorn sample to `T_BLANK`. -/
theorem awaitsSample_rasterTicks {s : State} (h : AwaitsSample s)
    (hkeep : (untornSample s.cfg.combine s.line).toNat < s.cfg.tBlank →
      (untornSample s.cfg.combine (rasterTicks s).line).toNat < s.cfg.tBlank) : AwaitsSample (rasterTicks s) := by
  obtain ⟨hb, hd, w, hp, hshort⟩ := h
  exact ⟨by simpa using hb, by simpa [latchedWord] using hd, w, by simpa using hp,
    fun hw => by simpa using hkeep (hshort hw)⟩

/-! ### RASTER has stopped (42_frame_scheduler.md R126) -/

theorem rasterTicks_of_no_tick {s : State} {ks : List Nat} (h : s.sched = 0 :: ks) :
    (rasterTicks s).line = s.line ∧ (rasterTicks s).sched = ks := by
  rw [rasterTicks_cons h]
  exact ⟨rfl, rfl⟩

/-- With no tick `WAITF` waits after any number of steps: after each whole sample, and after the first read of
the next. -/
theorem AwaitsSample.run_without_ticks (n : Nat) {s : State} (h : AwaitsSample s) (hc : ConfigWf s.cfg)
    (hs : s.sched = List.replicate n 0) :
    ∃ t, Host.Core.run Sys2Proof.core n s = .next t ∧ t.busy = true ∧ t.host = s.host ∧ t.line = s.line ∧
      t.res = s.res ∧ (busTrace t.hist).length = (busTrace s.hist).length + n := by
  induction n using Nat.twoStepInduction generalizing s with
  | zero =>
    obtain ⟨hb, -⟩ := h
    exact ⟨s, rfl, hb, rfl, rfl, rfl, rfl⟩
  | one =>
    obtain ⟨hb, hd, w, hp, -⟩ := h
    obtain ⟨-, hline, hsched, hhost, -, hres, hbus, -⟩ := afterFirst_spec s
    have hstep : step s = .next (rasterTicks (gotoWait w .s1 (afterFirst s))) := by
      rw [step_busy hc hb hd, exec_waitf_first_of_loop hc.1 (.inl hp), thenTicks_next]
    obtain ⟨hstay, -⟩ := rasterTicks_of_no_tick (s := gotoWait w .s1 (afterFirst s)) (hsched.trans hs)
    exact ⟨_, run_of_step hstep 0, by simp, by simpa using hhost, hstay.trans hline, by simpa using hres,
      by simpa using hbus⟩
  | more n ih _ =>
    obtain ⟨t, hrun, hawaits, hcfg, hline, hsched, hhost, hres, hbus⟩ := h.run_sample hc hs
    obtain ⟨hstay, hleft⟩ := rasterTicks_of_no_tick hsched
    obtain ⟨u, hrun', hb, hhost', hline', hres', hbus'⟩ :=
      ih (awaitsSample_rasterTicks hawaits (by rw [hstay]; exact id)) (by simpa [hcfg] using hc) hleft
    refine ⟨u, by rw [Nat.add_comm, run_add hrun, hrun'], hb, ?_, ?_, ?_, ?_⟩
    · simpa [hhost] using hhost'
    · rw [hline', hstay, hline]
    · simpa [hres] using hres'
    · rw [hbus', rasterTicks_hist, hbus]
      omega

/-- Settles O34: `WAITF` is accepted and waits, as no tick brings a sample of `W_PHASE2` to `T_BLANK`. -/
theorem waitfHangsWhenRasterStops : Obligations.WaitfHangsWhenRasterStops := by
  unfold Obligations.WaitfHangsWhenRasterStops
  intro s rest m hc hb hh hs
  rw [run_congr (step_accept hc hb hh decode_encode_waitf)]
  exact (awaitsSample_accept rest s).run_without_ticks (m + 1) hc hs

/-! ### RASTER ticks between the samples (42_frame_scheduler.md R130) -/

section
variable {c : Config} (hc : ConfigWf c)
include hc

/-- From line `T_BLANK` of a frame to line `T_BLANK` of the next, untorn samples short of `T_BLANK` stay short of it;
`p` and `q` are counted in ticks from line 0 of the first frame. -/
theorem untornSample_stays_short {p q : Nat} {first later : Line} (hp : first.toNat = p % c.lines)
    (hq : later.toNat = q % c.lines) (hblank : c.tBlank ≤ p) (hpq : p ≤ q) (hnext : q < c.lines + c.tBlank)
    (h : (untornSample c.combine first).toNat < c.tBlank) : (untornSample c.combine later).toNat < c.tBlank := by
  have hc' := hc
  obtain ⟨-, -, -, -, -, hlines, -⟩ := hc
  have hpos : 0 < c.lines := by omega
  rw [untornSample_lt_tBlank_iff hc' (by rw [hp]; exact Nat.mod_lt _ hpos)] at h
  rw [untornSample_lt_tBlank_iff hc' (by rw [hq]; exact Nat.mod_lt _ hpos)]
  rcases lt_or_ge q c.lines with hsame | hwrapped
  · rw [Nat.mod_eq_of_lt (by omega)] at hp hq
    rcases h with hlow | ⟨hmode, hpast⟩
    · omega
    · exact .inr ⟨hmode, by omega⟩
  · rw [Nat.mod_eq_sub_mod hwrapped, Nat.mod_eq_of_lt (by omega)] at hq
    exact .inl (by omega)

theorem rasterTicks_line_toNat {s : State} {p k : Nat} {ks : List Nat} (hcfg : s.cfg = c)
    (hline : s.line.toNat = p % c.lines) (hs : s.sched = k :: ks) :
    (rasterTicks s).line.toNat = (p + k) % c.lines := by
  subst hcfg
  obtain ⟨-, -, -, -, -, hlines, hmax, -⟩ := hc
  have hlt : s.line.toNat < s.cfg.lines := hline ▸ Nat.mod_lt _ (by omega)
  rw [rasterTicks_cons hs]
  exact (lineAfter_toNat hmax hlt k).trans (by rw [hline, Nat.mod_add_mod])

end

/-- `WAITF` waits after each untorn sample taken before line `T_BLANK` of the next frame; `p` is the present line,
counted in ticks from line 0 of the frame. -/
theorem AwaitsSample.run_untorn (j : Nat) {s : State} {ks : List Nat} {p : Nat} (h : AwaitsSample s)
    (hc : ConfigWf s.cfg) (hs : s.sched = untornSchedule ks) (hj : j < ks.length)
    (hline : s.line.toNat = p % s.cfg.lines)
    (hblank : s.cfg.tBlank ≤ p) (hnext : p + (ks.take j).sum < s.cfg.lines + s.cfg.tBlank) :
    ∃ t, Host.Core.run Sys2Proof.core (2 * (j + 1)) s = .next t ∧ t.busy = true ∧ t.host = s.host := by
  induction j generalizing s ks p with
  | zero =>
    obtain ⟨k, ks, rfl⟩ := List.exists_cons_of_length_pos hj
    obtain ⟨t, hrun, ⟨hb, -⟩, -, -, -, hhost, -⟩ := h.run_sample hc hs
    exact ⟨_, hrun, by simpa using hb, by simpa using hhost⟩
  | succ j ih =>
    obtain ⟨k, ks, rfl⟩ := List.exists_cons_of_length_pos (Nat.zero_lt_of_lt hj)
    obtain ⟨t, hrun, hawaits, hcfg, hstay, hsched, hhost, -⟩ := h.run_sample hc hs
    rw [List.take_succ_cons, List.sum_cons] at hnext
    have hline' := rasterTicks_line_toNat (k := k) hc hcfg (hstay ▸ hline) hsched
    have hleft : (rasterTicks t).sched = untornSchedule ks := by rw [rasterTicks_cons hsched]; rfl
    have hkeep := untornSample_stays_short hc (hstay ▸ hline) hline' hblank (by omega) (by omega)
    obtain ⟨u, hrun', hb, hhost'⟩ := ih (awaitsSample_rasterTicks hawaits (by rwa [hcfg])) (by simpa [hcfg] using hc)
      hleft (Nat.lt_of_succ_lt_succ hj) (by simpa [hcfg] using hline') (by simp only [rasterTicks_cfg, hcfg]; omega)
      (by simp only [rasterTicks_cfg, hcfg]; omega)
    refine ⟨u, ?_, hb, by simpa [hhost] using hhost'⟩
    rw [show 2 * (j + 1 + 1) = 2 + 2 * (j + 1) by omega, run_add hrun, hrun']

/-- Settles O36: `WAITF` is accepted at or past `T_BLANK`, from where a sample that leads into `W_PHASE2` is short of
`T_BLANK` and so is every later one. -/
theorem waitfNeverCompletesTwiceInAFrame : Obligations.WaitfNeverCompletesTwiceInAFrame := by
  unfold Obligations.WaitfNeverCompletesTwiceInAFrame
  intro s rest ks j hc hline hblank hb hh hs hj hnext
  rw [show 2 * (j + 1) = 2 * j + 1 + 1 from rfl, run_congr (step_accept hc hb hh decode_encode_waitf)]
  exact (awaitsSample_accept rest s).run_untorn j hc hs hj (Nat.mod_eq_of_lt hline).symm hblank hnext

/-! ### RASTER's ticks (42_frame_scheduler.md R120) -/

/-- Any number of ticks: the line as a remainder, the frames begun as a quotient, and nothing else. -/
theorem tickLine_eq {s : State} (hc : ConfigWf s.cfg) (hline : s.line.toNat < s.cfg.lines) (k : Nat) :
    tickLine k s = { s with
      line := BitVec.ofNat 9 ((s.line.toNat + k) % s.cfg.lines)
      frame := s.frame + (s.line.toNat + k) / s.cfg.lines } := by
  obtain ⟨-, -, -, -, -, -, hmax, -⟩ := hc
  rw [tickLine, framesAfter_eq hmax hline, ← lineAfter_toNat hmax hline, BitVec.ofNat_toNat, BitVec.setWidth_eq]

/-- Where a schedule says nothing, a free number of ticks (log 8). -/
theorem rasterTicks_nil {s : State} (h : s.sched = []) :
    rasterTicks s = tickLine (Config.freeTicks s.draws) { s with draws := s.draws + 1 } := by
  simp only [rasterTicks, h]

/-- Settles O26: the ticks of a schedule or a free number of them, and the frame of every SEQ step. -/
theorem rasterAloneWritesTheLine : Obligations.RasterAloneWritesTheLine := by
  unfold Obligations.RasterAloneWritesTheLine
  refine ⟨fun lines line hpos hmax => nextLine_toNat hpos hmax line, fun s k rest hc hline hs => ?_,
    fun s hc hline hs => ⟨Config.freeTicks s.draws, ?_⟩, fun i s t h => ?_⟩
  · exact (rasterTicks_cons hs).trans (tickLine_eq (s := { s with sched := rest }) hc hline k)
  · exact (rasterTicks_nil hs).trans (tickLine_eq (s := { s with draws := s.draws + 1 }) hc hline _)
  · obtain ⟨-, hline, hframe, -⟩ := exec_frame h
    exact ⟨hline, hframe⟩

/-! ### The blanking interval (42_frame_scheduler.md R129) -/

/-- How many of the first `n` lines are in `in_blank`. -/
theorem length_filter_inBlank {c : Config} (h : c.vFirst ≤ c.tBlank) (n : Nat) :
    ((List.range n).filter (inBlank c)).length = min n c.vFirst + (n - c.tBlank) := by
  induction n with
  | zero => simp
  | succ n ih =>
    rw [List.range_succ, List.filter_append, List.length_append, ih]
    by_cases hn : c.tBlank ≤ n ∨ n < c.vFirst
    · have hin : inBlank c n = true := by simpa [inBlank] using hn
      rw [List.filter_cons_of_pos hin, List.filter_nil, List.length_singleton]
      omega
    · have hout : ¬ inBlank c n = true := by simpa [inBlank] using hn
      rw [List.filter_cons_of_neg hout, List.filter_nil, List.length_nil]
      omega

/-- Settles O37: `V_FIRST` lines at the start of a frame, and those from `T_BLANK` to its end. -/
theorem blankingIntervalLength : Obligations.BlankingIntervalLength := by
  unfold Obligations.BlankingIntervalLength
  rintro c ⟨-, -, hlate, -, -, hlines, -, -, hfirst, -⟩
  rw [length_filter_inBlank (by omega)]
  omega

theorem blankingInterval_eq_iff {c : Config} (h : c.vFirst ≤ c.tBlank) (frame line b : Nat) :
    blankingInterval c frame line = some b ↔
      (c.tBlank ≤ line ∧ b = frame + 1) ∨ (line < c.vFirst ∧ b = frame) := by
  unfold blankingInterval
  split
  · simp only [Option.some_inj]
    omega
  · split
    · simp only [Option.some_inj]
      omega
    · exact ⟨nofun, fun hin => by omega⟩

/-- Interval number `frame + b` in ticks from line 0 of frame `frame`: from `T_BLANK` of the frame before the `b`-th
after it to `V_FIRST` of that frame. -/
theorem blankingInterval_at_tick_iff {c : Config} (hc : ConfigWf c) (frame p b : Nat) :
    blankingInterval c (frame + p / c.lines) (p % c.lines) = some (frame + b) ↔
      c.lines * b + c.tBlank ≤ p + c.lines ∧ p < c.lines * b + c.vFirst := by
  obtain ⟨-, -, hlate, -, -, hlines, -, -, hfirst, -⟩ := hc
  have hsplit := Nat.div_add_mod p c.lines
  have hmod := Nat.mod_lt p (by omega : 0 < c.lines)
  rw [blankingInterval_eq_iff (by omega)]
  generalize p / c.lines = q at *
  generalize p % c.lines = r at *
  rcases lt_trichotomy b q with hlt | rfl | hgt
  · have hmul : c.lines * (b + 1) ≤ c.lines * q := Nat.mul_le_mul_left _ hlt
    rw [Nat.mul_succ] at hmul
    omega
  · omega
  · rcases Nat.eq_or_lt_of_le hgt with rfl | hgt
    · rw [Nat.mul_succ]
      omega
    · have hmul : c.lines * (q + 2) ≤ c.lines * b := Nat.mul_le_mul_left _ hgt
      rw [Nat.mul_add] at hmul
      omega

theorem inBlank_iff (c : Config) (line : Nat) : inBlank c line = true ↔ c.tBlank ≤ line ∨ line < c.vFirst := by
  simp [inBlank]

/-- From a line of a blanking interval, the ticks that stay in it are fewer than the lines left of it. -/
theorem stays_in_blankingInterval_iff {c : Config} (hc : ConfigWf c) {line : Nat} (frame : Nat)
    (hin : inBlank c line = true) :
    ∃ b, blankingInterval c frame line = some b ∧ ∀ k,
      blankingInterval c (frame + (line + k) / c.lines) ((line + k) % c.lines) = some b ↔ k < blankLeft c line := by
  have hc' := hc
  obtain ⟨-, -, hlate, -, -, hlines, -, -, hfirst, -⟩ := hc
  by_cases hblank : c.tBlank ≤ line
  · refine ⟨frame + 1, by rw [blankingInterval, if_pos hblank], fun k => ?_⟩
    rw [blankingInterval_at_tick_iff hc', blankLeft, if_pos hblank]
    omega
  · have hearly : line < c.vFirst := ((inBlank_iff c line).1 hin).resolve_left hblank
    refine ⟨frame + 0, by rw [blankingInterval, if_neg hblank, if_pos hearly]; rfl, fun k => ?_⟩
    rw [blankingInterval_at_tick_iff hc', blankLeft, if_neg hblank]
    omega

/-- After the lines left of a blanking interval the line is `V_FIRST`. -/
theorem line_after_blankLeft {c : Config} (hc : ConfigWf c) {line : Nat} (hline : line < c.lines)
    (hin : inBlank c line = true) : (line + blankLeft c line) % c.lines = c.vFirst := by
  obtain ⟨-, -, hlate, -, -, hlines, -, -, hfirst, -⟩ := hc
  by_cases hblank : c.tBlank ≤ line
  · rw [blankLeft, if_pos hblank,
      show line + (c.lines - c.tBlank + c.vFirst - (line - c.tBlank)) = c.lines + c.vFirst by omega,
      Nat.add_mod_left, Nat.mod_eq_of_lt (by omega)]
  · have hearly : line < c.vFirst := ((inBlank_iff c line).1 hin).resolve_left hblank
    rw [blankLeft, if_neg hblank, Nat.add_sub_cancel' hearly.le, Nat.mod_eq_of_lt (by omega)]

/-- Settles O57: a blanking interval is the ticks from one line `T_BLANK` to the next `V_FIRST`. -/
theorem blankingIntervalLastsUntilScanOut : Obligations.BlankingIntervalLastsUntilScanOut := by
  unfold Obligations.BlankingIntervalLastsUntilScanOut
  intro c frame line hc hline
  have hc' := hc
  obtain ⟨-, -, hlate, -, -, -, -, -, hfirst, -⟩ := hc'
  refine ⟨fun hout => ?_, fun hin => ?_⟩
  · obtain ⟨hbefore, hafter⟩ := not_or.1 ((inBlank_iff c line).not.1 (by simp [hout]))
    rw [blankingInterval, if_neg hbefore, if_neg hafter, blankLeft, if_neg hbefore]
    exact ⟨rfl, by omega⟩
  · obtain ⟨b, hb, hstays⟩ := stays_in_blankingInterval_iff hc frame hin
    refine ⟨b, hb, hstays, fun k hk => (blankingInterval_eq_some_iff c _ _).1 ⟨b, (hstays k).2 hk⟩,
      line_after_blankLeft hc hline hin, ?_⟩
    rw [← Bool.not_eq_true, inBlank_iff]
    omega

/-! ### Commit windows (42_frame_scheduler.md R128) -/

theorem gateReturns_cons (e : Event) (h : List Event) :
    gateReturns (e :: h) = gateReturns h + if e = .completed .waitf then 1 else 0 := by
  simp only [gateReturns, List.countP_cons, decide_eq_true_eq]

/-- A bus transaction completes no command. -/
theorem BusStep.gateReturns_eq {i : Instr} {s u : State} (h : BusStep i s u) :
    gateReturns u.hist = gateReturns s.hist := by
  rcases h with ⟨-, -, rfl⟩ | ⟨-, -, addr, k, -, rfl⟩ | ⟨-, addr, k, d, -, -, rfl⟩
  · rfl
  · simp [afterRead, gateReturns_cons]
  · simp [afterWrite, gateReturns_cons]

/-- Settles O50: after its transaction a step records nothing or the completion of its own command. -/
theorem onlyWaitfOpensACommitWindow : Obligations.OnlyWaitfOpensACommitWindow := by
  unfold Obligations.OnlyWaitfOpensACommitWindow
  intro i s t h
  obtain ⟨u, hbus, new, ht, hnew, -⟩ := exec_eq_next h
  have hist : t.hist = new ++ u.hist := by rw [ht]
  rw [hist, ← hbus.gateReturns_eq]
  rcases hnew with ⟨rfl, hb, -⟩ | ⟨rfl, hb, -⟩
  · simp [hb]
  · simp [hb, gateReturns_cons]

/-- What an accepted command adds to the commands of a window. -/
theorem acceptedAfter_of_accepting_step {s t : State} {w : CmdWord} {rest : List CmdWord} {i : Instr}
    (hb : s.busy = false) (hh : s.host = w :: rest) (hd : decode w = .ok i) (h : step s = .next t) (k : Nat) :
    acceptedAfter k t.hist =
      if gateReturns s.hist = k then i :: acceptedAfter k s.hist else acceptedAfter k s.hist := by
  obtain ⟨u, rfl, hu⟩ := step_eq_next h
  rcases hu with ⟨-, hnone, -⟩ | ⟨-, w', rest', i', hh', hd', hexec⟩ | ⟨hbusy, -⟩
  · simp [hh] at hnone
  · cases hh.symm.trans hh'
    cases hd.symm.trans hd'
    rw [rasterTicks_hist, acceptedAfter_of_exec hexec, accept_hist, acceptedAfter]
  · simp [hb] at hbusy

/-- Settles O59: the accepted command joins the commands accepted after as many completions as there have been. -/
theorem acceptedCommandJoinsTheOpenWindow : Obligations.AcceptedCommandJoinsTheOpenWindow := by
  unfold Obligations.AcceptedCommandJoinsTheOpenWindow
  intro s t w rest i hb hh hd h
  have hjoin := acceptedAfter_of_accepting_step hb hh hd h
  refine ⟨fun hnone => ⟨?_, fun k => ?_⟩, fun hsome => ⟨?_, fun k => ?_⟩⟩
  · rw [beforeFirstWindow, hjoin, if_pos hnone, beforeFirstWindow]
  · rw [commitWindow, commitWindow, hjoin, hnone]
    split
    · rfl
    · next hk => rw [if_neg (Ne.symm hk)]
  · rw [beforeFirstWindow, hjoin, if_neg hsome, beforeFirstWindow]
  · rw [commitWindow, commitWindow, hjoin]
    split
    · next hk => rw [if_neg (by omega)]
    · simp only [eq_comm]

end Sys2Proof.Machine

end

section
/-! SUPPORT. Proofs about refusals (60_exceptions.md R155): why a step is refused, and why a SEQ step of a decoded command
is refused only by its bus transaction. -/

namespace Sys2Proof.Machine

/-! ### The refusals of `step` -/

/-- Settles O7: `step` checks the configuration before anything else. -/
theorem illFormedConfigurationIsRefused : Obligations.IllFormedConfigurationIsRefused := by
  unfold Obligations.IllFormedConfigurationIsRefused
  intro s hc
  rw [step, if_neg hc]

/-- RASTER's ticks neither add nor lift a refusal. -/
theorem thenTicks_eq_refused {o : Host.Outcome State Fault Refusal} {r : Refusal} (h : thenTicks o = .refused r) :
    o = .refused r := by
  cases o with
  | next u => cases h
  | fault e => cases h
  | refused e => exact h

/-- `step` while the latches hold a reserved word, which the invariant excludes. -/
theorem step_busy_reserved {s : State} {why : Reserved} (hc : ConfigWf s.cfg) (hb : s.busy = true)
    (hd : decode (latchedWord s) = .error why) : step s = .refused (.reservedWord (latchedWord s) why) := by
  simp only [step, if_pos hc, hb, if_true, resume, hd, thenTicks]

/-- All a step can be refused for: the configuration; a reserved word on `CMD` or in the latches; the SEQ step of the
command just accepted or of the one in the latches. -/
theorem step_eq_refused {s : State} {r : Refusal} (h : step s = .refused r) :
    (¬ ConfigWf s.cfg ∧ r = .illFormedConfig) ∨
    (s.busy = false ∧ ∃ w rest, s.host = w :: rest ∧
      ((∃ why, decode w = .error why ∧ r = .reservedWord w why) ∨
        ∃ i, decode w = .ok i ∧ exec i (accept w i rest s) = .refused r)) ∨
    (s.busy = true ∧
      ((∃ why, decode (latchedWord s) = .error why ∧ r = .reservedWord (latchedWord s) why) ∨
        ∃ i, decode (latchedWord s) = .ok i ∧ exec i s = .refused r)) := by
  by_cases hc : ConfigWf s.cfg
  · refine .inr ?_
    cases hb : s.busy with
    | false =>
      refine .inl ⟨rfl, ?_⟩
      cases hh : s.host with
      | nil => rw [step_no_command hc hb hh] at h; cases h
      | cons w rest =>
        refine ⟨w, rest, rfl, ?_⟩
        cases hd : decode w with
        | error why => rw [step_reserved hc hb hh hd] at h; cases h; exact .inl ⟨why, rfl, rfl⟩
        | ok i => rw [step_idle hc hb hh hd] at h; exact .inr ⟨i, rfl, thenTicks_eq_refused h⟩
    | true =>
      refine .inr ⟨rfl, ?_⟩
      cases hd : decode (latchedWord s) with
      | error why => rw [step_busy_reserved hc hb hd] at h; cases h; exact .inl ⟨why, rfl, rfl⟩
      | ok i => rw [step_busy hc hb hd] at h; exact .inr ⟨i, rfl, thenTicks_eq_refused h⟩
  · rw [illFormedConfigurationIsRefused s hc] at h
    cases h
    exact .inl ⟨hc, rfl⟩

/-! ### The refusals of a SEQ step -/

/-- If the outcome is a refusal, a bus transaction is its cause: no cell at the address (00_scope.md R8), or a write to
a raster register (10_state.md R31). -/
def RefusedOnlyByBus (c : Config) (o : Host.Outcome State Fault Refusal) : Prop :=
  ∀ r, o = .refused r →
    (∃ addr, cellAt c addr = none ∧ r = .outsideBlockMap addr) ∨
    (∃ addr, (cellAt c addr = some .rasterHi ∨ cellAt c addr = some .rasterLo) ∧ r = .rasterWrite addr)

theorem refusedOnlyByBus_next {c : Config} {t : State} : RefusedOnlyByBus c (.next t) := nofun

theorem withRead_refusedOnlyByBus {addr : Addr} {s : State} {next : Byte → State → State} :
    RefusedOnlyByBus s.cfg (withRead addr s next) := by
  intro r h
  cases hk : cellAt s.cfg addr with
  | none => rw [withRead_of_unmapped hk] at h; cases h; exact .inl ⟨addr, hk, rfl⟩
  | some k => rw [withRead_of_cellAt hk] at h; cases h

theorem withWrite_refusedOnlyByBus {addr : Addr} {d : Byte} {s : State} {next : State → State} :
    RefusedOnlyByBus s.cfg (withWrite addr d s next) := by
  intro r h
  match hk : cellAt s.cfg addr with
  | none => rw [withWrite_of_unmapped hk] at h; cases h; exact .inl ⟨addr, hk, rfl⟩
  | some .rasterHi => rw [withWrite_of_raster (.inl hk)] at h; cases h; exact .inr ⟨addr, .inl hk, rfl⟩
  | some .rasterLo => rw [withWrite_of_raster (.inr hk)] at h; cases h; exact .inr ⟨addr, .inr hk, rfl⟩
  | some (.spr k) => rw [withWrite_of_cellAt hk] at h; cases h

theorem readModifyWrite_refusedOnlyByBus {i : Instr} {addr : Addr} {modify : Byte → Byte} {s : State} :
    RefusedOnlyByBus s.cfg (readModifyWrite i addr modify s) := by
  by_cases hp : s.ph = .step 1
  · rw [readModifyWrite_write hp]
    exact withWrite_refusedOnlyByBus
  · rw [readModifyWrite_read hp]
    exact withRead_refusedOnlyByBus

/-- With every index in range, only the bus refuses a SEQ step; the two samplers read cells of the map. -/
theorem exec_refusedOnlyByBus {i : Instr} {s : State} (hm : MapWf s.cfg) (hw : i.wellFormed = true) :
    RefusedOnlyByBus s.cfg (exec i s) := by
  cases i with
  | rd addr => exact withRead_refusedOnlyByBus
  | wr addr value => exact withWrite_refusedOnlyByBus
  | setb addr bit => exact exec_setb (of_decide_eq_true hw) addr s ▸ readModifyWrite_refusedOnlyByBus
  | clrb addr bit => exact exec_clrb (of_decide_eq_true hw) addr s ▸ readModifyWrite_refusedOnlyByBus
  | tstb addr bit => exact exec_tstb (of_decide_eq_true hw) addr s ▸ withRead_refusedOnlyByBus
  | sprEn n flag => exact exec_sprEn (of_decide_eq_true hw) flag s ▸ readModifyWrite_refusedOnlyByBus
  | sprMc n flag => exact exec_sprMc (of_decide_eq_true hw) flag s ▸ readModifyWrite_refusedOnlyByBus
  | sprBlk n block => exact exec_sprBlk (of_decide_eq_true hw) block s ▸ withWrite_refusedOnlyByBus
  | sprPos n x y =>
    rw [exec_sprPos (of_decide_eq_true hw)]
    split
    · exact withWrite_refusedOnlyByBus
    · exact withRead_refusedOnlyByBus
    · exact withWrite_refusedOnlyByBus
    · exact withWrite_refusedOnlyByBus
  | sprCol n colour => exact exec_sprCol (of_decide_eq_true hw) colour s ▸ withWrite_refusedOnlyByBus
  | sprCc ca cb =>
    by_cases hp : s.ph = .step 1
    · exact exec_sprCc_second hp ca cb ▸ withWrite_refusedOnlyByBus
    · exact exec_sprCc_first hp ca cb ▸ withWrite_refusedOnlyByBus
  | blkAddr pointer => exact refusedOnlyByBus_next
  | rline =>
    by_cases hp : s.ph = .step 1
    · exact exec_rline_second hp hm ▸ refusedOnlyByBus_next
    · exact exec_rline_first hp hm ▸ refusedOnlyByBus_next
  | waitf =>
    by_cases hp : ∃ w, s.ph = .wait w .s1
    · obtain ⟨w, hp⟩ := hp
      exact exec_waitf_second hp hm ▸ refusedOnlyByBus_next
    · exact exec_waitf_first (fun w hs => hp ⟨w, hs⟩) hm ▸ refusedOnlyByBus_next

/-- While a command is in progress the latches hold no reserved word. -/
theorem decode_ne_error_of_inCommand {s : State} (h : inCommand s = true) (why : Reserved) :
    decode (latchedWord s) ≠ .error why := by
  intro hd
  simp [inCommand, hd] at h

/-- Settles O44: the invariant excludes the configuration and the latches as causes, and a decoded command has its
indices in range. -/
theorem stepRefusesOnlyWhatTheSpecRefuses : Obligations.StepRefusesOnlyWhatTheSpecRefuses := by
  unfold Obligations.StepRefusesOnlyWhatTheSpecRefuses
  rintro s r ⟨hc, -, -, -, -, hcmd⟩ h
  have hexec {i : Instr} {w : CmdWord} {u : State} (hcfg : u.cfg = s.cfg) (hd : decode w = .ok i) :
      RefusedOnlyByBus s.cfg (exec i u) :=
    hcfg ▸ exec_refusedOnlyByBus (hcfg ▸ hc.1) (encodeOfDecode w i hd).2
  rcases step_eq_refused h with ⟨hbad, -⟩ | ⟨hb, w, rest, hh, ⟨why, hd, hr⟩ | ⟨i, hd, hx⟩⟩ |
    ⟨hb, ⟨why, hd, -⟩ | ⟨i, hd, hx⟩⟩
  · exact absurd hc hbad
  · exact .inl ⟨w, rest, why, hb, hh, hd, hr⟩
  · exact .inr (hexec (accept_cfg ..) hd r hx)
  · exact absurd hd (decode_ne_error_of_inCommand (hcmd hb) why)
  · exact .inr (hexec rfl hd r hx)

end Sys2Proof.Machine

end

section
/-! SUPPORT. Proofs about the poll bound of `WAITF` (70_reset_and_hazards.md R170): a wait sample by sample on RASTER's
ticks, the two schedules under which it never completes, and why it completes within two frames otherwise; and about the
blanking interval of an update (R167). -/

namespace Sys2Proof.Machine

/-! ### A sample on RASTER's ticks -/

/-- The line after `pos` ticks from line 0. -/
def lineAt (c : Config) (pos : Nat) : Line := BitVec.ofNat 9 (pos % c.lines)

/-- The line value of a sample that read `RASTER_HI` on line `high` and `RASTER_LO` on line `low`; the seven low bits of
the high byte, which never matter, taken as 0. -/
def viewOf (mode : Combine) (high low : Line) : Line :=
  combineLine mode (high.extractLsb' 8 1 ++ 0#7) (low.extractLsb' 0 8)

/-- The line value of a sample begun at tick `pos`, with the ticks inside and after it. -/
def sampleAt (c : Config) (pos : Nat) (p : Nat × Nat) : Line :=
  match c.readOrder with
  | .hiFirst => viewOf c.combine (lineAt c pos) (lineAt c (pos + p.1))
  | .loFirst => viewOf c.combine (lineAt c (pos + p.1)) (lineAt c pos)

theorem combineLine_eq_viewOf (mode : Combine) (high low : Line) (c : BitVec 7) :
    combineLine mode (high.extractLsb' 8 1 ++ c) (low.extractLsb' 0 8) = viewOf mode high low :=
  combineLine_congr (by rw [BitVec.getLsbD_append, BitVec.getLsbD_append]; rfl) mode _

theorem lineAt_congr {c : Config} {p q : Nat} (h : p % c.lines = q % c.lines) : lineAt c p = lineAt c q := by
  rw [lineAt, lineAt, h]

theorem sampleAt_congr {c : Config} {p q : Nat} (h : p % c.lines = q % c.lines) (k : Nat × Nat) :
    sampleAt c p k = sampleAt c q k := by
  rw [sampleAt, sampleAt, lineAt_congr h, lineAt_congr (Nat.ModEq.add_right k.1 h)]

theorem lineAt_of_lt {c : Config} {line : Line} (h : line.toNat < c.lines) : lineAt c line.toNat = line := by
  rw [lineAt, Nat.mod_eq_of_lt h, BitVec.ofNat_toNat, BitVec.setWidth_eq]

section
variable {c : Config} (hc : ConfigWf c)
include hc

theorem lines_pos : 0 < c.lines := by
  obtain ⟨-, -, -, -, -, hlines, -⟩ := hc
  omega

theorem lineAt_toNat (pos : Nat) : (lineAt c pos).toNat = pos % c.lines := by
  have hlt := Nat.mod_lt pos (lines_pos hc)
  obtain ⟨-, -, -, -, -, -, hmax, -⟩ := hc
  rw [lineAt, BitVec.toNat_ofNat, Nat.mod_eq_of_lt (by omega)]

theorem lineAfter_lineAt (pos k : Nat) : lineAfter c.lines (lineAt c pos) k = lineAt c (pos + k) := by
  have hlt := lineAt_toNat hc pos ▸ Nat.mod_lt pos (lines_pos hc)
  have hlines : c.lines ≤ 512 := by
    obtain ⟨-, -, -, -, -, -, hmax, -⟩ := hc
    exact hmax
  apply BitVec.eq_of_toNat_eq
  rw [lineAfter_toNat hlines hlt, lineAt_toNat hc, lineAt_toNat hc, Nat.mod_add_mod]

end

/-! ### `WAITF` in progress, sample by sample (42_frame_scheduler.md R124) -/

/-- `WAITF` is about to take the samples `ps` under configuration `c`, in loop `w`, the line being that of tick `pos`;
`rest` is what HOST has yet to present. -/
structure AtSample (c : Config) (rest : List CmdWord) (w : WaitPhase) (pos : Nat) (ps : List (Nat × Nat)) (s : State) :
    Prop where
  cfg : s.cfg = c
  host : s.host = rest
  busy : s.busy = true
  command : decode (latchedWord s) = .ok .waitf
  ph : s.ph = .wait w .s0
  line : s.line = lineAt c pos
  sched : s.sched = sampleSchedule ps

theorem sampleSchedule_cons (p : Nat × Nat) (ps : List (Nat × Nat)) :
    sampleSchedule (p :: ps) = p.1 :: p.2 :: sampleSchedule ps := rfl

/-- HOST's `WAITF` runs as if it had been accepted into `W_TEST`. -/
theorem run_accepted_waitf {s : State} {rest : List CmdWord} {ps : List (Nat × Nat)} (hc : ConfigWf s.cfg)
    (hline : s.line.toNat < s.cfg.lines) (hb : s.busy = false) (hh : s.host = encode .waitf :: rest)
    (hs : s.sched = sampleSchedule ps) :
    ∃ u, AtSample s.cfg rest .test s.line.toNat ps u ∧
      ∀ n, Host.Core.run Sys2Proof.core (n + 1) s = Host.Core.run Sys2Proof.core (n + 1) u :=
  ⟨accept (encode .waitf) .waitf rest s,
    { cfg := rfl, host := rfl, busy := rfl
      command := by rw [latchedWord_accept decode_encode_waitf, decode_encode_waitf]
      ph := startPhase_of_decode decode_encode_waitf
      line := (lineAt_of_lt hline).symm
      sched := hs },
    run_congr (step_accept hc hb hh decode_encode_waitf)⟩

/-- The two steps of a sample: `b` is the state with the sample taken, before the comparison. Either `WAITF` completes, or
it goes on with the next sample. -/
theorem AtSample.run_sample {c : Config} {rest : List CmdWord} {w : WaitPhase} {pos : Nat} {p : Nat × Nat}
    {ps : List (Nat × Nat)} {s : State} (h : AtSample c rest w pos (p :: ps) s) (hc : ConfigWf c) :
    ∃ b, b.cfg = c ∧ b.host = rest ∧ b.l = sampleAt c pos p ∧
      (completesWait w b = true → Host.Core.run Sys2Proof.core 2 s = .next (rasterTicks (complete .waitf b))) ∧
      (completesWait w b = false → ∃ t, Host.Core.run Sys2Proof.core 2 s = .next t ∧
        AtSample c rest (loopAfterSample w b) (pos + p.1 + p.2) ps t) := by
  obtain ⟨rfl, hhost, hb, hd, hp, hline, hs⟩ := h
  rw [sampleSchedule_cons] at hs
  obtain ⟨a, b, ctrl, hexec, hstep, hcfg, hbline, hsched, hbhost, hlatch, -, -, hl⟩ := step_sample hc hp hs hd
  rw [hline, lineAfter_lineAt hc] at hbline
  have hfirst : step s = .next (rasterTicks a) := by rw [step_busy hc hb hd, hexec, thenTicks_next]
  have hrun : Host.Core.run Sys2Proof.core 2 s = .next (rasterTicks (waitDecide w b)) := by
    rw [run_of_step hfirst, run_of_step hstep]
    rfl
  refine ⟨b, hcfg, hbhost.trans hhost, ?_, fun hdone => ?_, fun hgo => ?_⟩
  · rw [hl, hline, hbline, sampleAt]
    cases s.cfg.readOrder
    · exact combineLine_eq_viewOf _ _ _ ctrl
    · exact combineLine_eq_viewOf _ _ _ ctrl
  · rw [hrun, waitDecide_of_completes hdone]
  · refine ⟨_, hrun, ?_⟩
    rw [waitDecide_of_goes_on hgo, rasterTicks_cons (s := gotoWait _ .s0 b) hsched]
    exact {
      cfg := hcfg, host := hbhost.trans hhost, busy := rfl
      command := (congrArg decode hlatch).trans hd
      ph := rfl
      line := by rw [← lineAfter_lineAt hc, ← hbline, ← hcfg]; rfl
      sched := rfl }

/-! ### Waits in which no sample reaches `T_BLANK` -/

/-- Every sample of the list, the first begun at tick `pos`, is short of `T_BLANK`. -/
def allShort (c : Config) : Nat → List (Nat × Nat) → Bool
  | _, [] => true
  | pos, p :: ps => decide ((sampleAt c pos p).toNat < c.tBlank) && allShort c (pos + p.1 + p.2) ps

theorem allShort_congr {c : Config} (ps : List (Nat × Nat)) {p q : Nat} (h : p % c.lines = q % c.lines) :
    allShort c p ps = allShort c q ps := by
  induction ps generalizing p q with
  | nil => rfl
  | cons k ks ih =>
    rw [allShort, allShort, sampleAt_congr h, ih (Nat.ModEq.add_right k.2 (Nat.ModEq.add_right k.1 h))]

/-- The ticks of a list of samples, inside them and after them. -/
def ticksOf (ps : List (Nat × Nat)) : Nat := (sampleSchedule ps).sum

theorem allShort_append (c : Config) (ps qs : List (Nat × Nat)) (pos : Nat) :
    allShort c pos (ps ++ qs) = (allShort c pos ps && allShort c (pos + ticksOf ps) qs) := by
  induction ps generalizing pos with
  | nil => rfl
  | cons p ps ih =>
    have hticks : pos + ticksOf (p :: ps) = pos + p.1 + p.2 + ticksOf ps := by
      rw [ticksOf, sampleSchedule_cons, List.sum_cons, List.sum_cons, ticksOf]
      omega
    rw [List.cons_append, allShort, allShort, ih, Bool.and_assoc, hticks]

/-- A block of samples that takes whole frames repeats. -/
theorem allShort_repeat {c : Config} {block : List (Nat × Nat)} {pos : Nat} (hframes : ticksOf block % c.lines = 0)
    (hshort : allShort c pos block = true) (n : Nat) : allShort c pos (List.replicate n block).flatten = true := by
  induction n with
  | zero => rfl
  | succ n ih =>
    have hback : (pos + ticksOf block) % c.lines = pos % c.lines := by
      rw [Nat.add_mod, hframes, Nat.add_zero, Nat.mod_mod]
    rw [List.replicate_succ, List.flatten_cons, allShort_append, hshort, allShort_congr _ hback, ih, Bool.true_and]

/-- `WAITF` still waits after samples that are all short of `T_BLANK`. -/
theorem AtSample.run_short {c : Config} {rest : List CmdWord} {w : WaitPhase} {pos : Nat} {ps : List (Nat × Nat)}
    {s : State} (h : AtSample c rest w pos ps s) (hc : ConfigWf c) (hshort : allShort c pos ps = true) :
    ∃ t, Host.Core.run Sys2Proof.core (2 * ps.length) s = .next t ∧ t.busy = true ∧ t.host = rest := by
  induction ps generalizing s w pos with
  | nil => exact ⟨s, rfl, h.busy, h.host⟩
  | cons p ps ih =>
    rw [allShort, Bool.and_eq_true, decide_eq_true_eq] at hshort
    obtain ⟨hfirst, hlater⟩ := hshort
    obtain ⟨b, hcfg, -, hl, -, hgo⟩ := h.run_sample hc
    have hwaits : completesWait w b = false := by
      rw [← Bool.not_eq_true, completesWait_iff, hcfg, hl]
      exact fun ⟨_, hblank⟩ => absurd hfirst (not_lt.2 hblank)
    obtain ⟨t, hrun, ht⟩ := hgo hwaits
    obtain ⟨u, hrun', hu⟩ := ih ht hlater
    exact ⟨u, by rw [List.length_cons, Nat.mul_succ, Nat.add_comm, run_add hrun, hrun'], hu⟩

/-- The same from HOST's `WAITF`. -/
theorem run_short_waitf {s : State} {rest : List CmdWord} {ps : List (Nat × Nat)} (hc : ConfigWf s.cfg)
    (hline : s.line.toNat < s.cfg.lines) (hb : s.busy = false) (hh : s.host = encode .waitf :: rest)
    (hs : s.sched = sampleSchedule ps) (hne : 0 < ps.length) (hshort : allShort s.cfg s.line.toNat ps = true) :
    ∃ t, Host.Core.run Sys2Proof.core (2 * ps.length) s = .next t ∧ t.busy = true ∧ t.host = rest := by
  obtain ⟨u, hu, hrun⟩ := run_accepted_waitf hc hline hb hh hs
  obtain ⟨n, hn⟩ := Nat.exists_eq_succ_of_ne_zero (by omega : 2 * ps.length ≠ 0)
  obtain ⟨t, ht, hwaits⟩ := hu.run_short hc hshort
  exact ⟨t, by rw [← ht, hn, hrun], hwaits⟩

/-! ### The ticks between two consecutive samples -/

/-- The ticks between a sample and the next, from one read of `RASTER_LO` to the other. -/
def sampleGap (order : ReadOrder) (p q : Nat × Nat) : Nat :=
  match order with
  | .hiFirst => p.2 + q.1
  | .loFirst => p.1 + p.2

theorem sampleGaps_cons_cons (order : ReadOrder) (p q : Nat × Nat) (ps : List (Nat × Nat)) :
    sampleGaps order (p :: q :: ps) = sampleGap order p q :: sampleGaps order (q :: ps) := by
  cases order
  · rfl
  · rfl

/-- The gaps are within a bound when each sample and the next are. -/
theorem sampleGaps_le_of_isChain {order : ReadOrder} {bound : Nat} {ps : List (Nat × Nat)}
    (h : ps.IsChain fun p q => sampleGap order p q ≤ bound) : ∀ k ∈ sampleGaps order ps, k ≤ bound := by
  induction h with
  | nil => exact nofun
  | singleton p => exact nofun
  | cons_cons hgap _ ih =>
    rw [sampleGaps_cons_cons]
    exact List.forall_mem_cons.2 ⟨hgap, ih⟩

/-! ### Two schedules within R170's bound under which `WAITF` never completes -/

/-- Four lines a frame in mode `LOW8`, the window being line 3 (log 21). -/
def shortFrame : Config :=
  { Config.ref with
    combine := .low8, lines := 4, tLate := 1, tLow := 2, tBlank := 3, vFirst := 1, pollMax := some 2 }

/-- REF but `T_LOW` and the poll bound (log 22). -/
def latePoll : Config := { Config.ref with tLow := 61, pollMax := some 61 }

/-- A frame of samples at most 61 ticks apart, the last torn at 255 -> 256 when the first is begun on line 5. -/
def tornFrame : List (Nat × Nat) := [(0, 61), (0, 61), (0, 61), (0, 61), (0, 6), (1, 61)]

theorem shortFrame_wf : ConfigWf shortFrame := by decide

theorem latePoll_wf : ConfigWf latePoll := by decide

/-- Samples two ticks apart from line 0 are all of line 0 or 2. -/
theorem allShort_shortFrame (n : Nat) : allShort shortFrame 0 (List.replicate n (0, 2)) = true ∧
    allShort shortFrame 2 (List.replicate n (0, 2)) = true := by
  induction n with
  | zero => exact ⟨rfl, rfl⟩
  | succ n ih =>
    obtain ⟨hzero, htwo⟩ := ih
    have hwrap : allShort shortFrame 4 (List.replicate n (0, 2)) = true :=
      (allShort_congr (p := 4) (q := 0) _ rfl).trans hzero
    rw [List.replicate_succ, allShort, allShort, Bool.and_eq_true, Bool.and_eq_true]
    exact ⟨⟨by decide, htwo⟩, by decide, hwrap⟩

theorem length_tornFrames (n : Nat) : (List.replicate n tornFrame).flatten.length = 6 * n := by
  rw [List.length_flatten, List.map_replicate, List.sum_replicate, Nat.mul_comm]
  rfl

theorem allShort_tornFrame (n : Nat) : allShort latePoll 5 (List.replicate n tornFrame).flatten = true :=
  allShort_repeat (by decide) (by decide) n

theorem isChain_tornFrames (n : Nat) :
    (List.replicate n tornFrame).flatten.IsChain fun p q => sampleGap .hiFirst p q ≤ 61 := by
  rw [List.isChain_flatten fun hnil => absurd (List.eq_of_mem_replicate hnil) (by decide)]
  refine ⟨fun l hl => ?_, List.isChain_replicate_of_rel n ?_⟩
  · rw [List.eq_of_mem_replicate hl]
    decide
  · rintro p hp q hq
    cases hp
    cases hq
    decide

/-- Settles O56: every sample of either schedule is short of `T_BLANK`, in the first because line 3 is never sampled, in
the second because the torn sample of lines 255 and 256 is 0. -/
theorem pollBoundAloneDoesNotSuffice : Obligations.PollBoundAloneDoesNotSuffice := by
  unfold Obligations.PollBoundAloneDoesNotSuffice
  intro s rest n hb hh
  refine ⟨fun (hcfg : s.cfg = shortFrame) hline hs => ?_, fun (hcfg : s.cfg = latePoll) hline
    (hs : s.sched = sampleSchedule (List.replicate (n + 1) tornFrame).flatten) => ?_⟩
  · have hs' : s.sched = sampleSchedule (List.replicate (n + 1) (0, 2)) := by
      rw [hs, untornSchedule, List.map_replicate]
    rw [hcfg]
    refine ⟨shortFrame_wf, by decide, sampleGaps_le_of_isChain (List.isChain_replicate_of_rel _ (by decide)), ?_⟩
    have hrun := run_short_waitf (hcfg ▸ shortFrame_wf) (by rw [hcfg, hline]; decide) hb hh hs' (by simp)
      (by rw [hcfg, hline]; exact (allShort_shortFrame _).1)
    rwa [List.length_replicate] at hrun
  · rw [hcfg]
    refine ⟨latePoll_wf, by decide, by decide, sampleGaps_le_of_isChain (isChain_tornFrames _), ?_⟩
    have hrun := run_short_waitf (hcfg ▸ latePoll_wf) (by rw [hcfg, hline]; decide) hb hh hs
      (by rw [length_tornFrames]; omega) (by rw [hcfg, hline]; exact allShort_tornFrame _)
    rwa [length_tornFrames, ← Nat.mul_assoc] at hrun

/-! ### The read of `RASTER_LO` in a sample, and the line value when no tear matters (42_frame_scheduler.md R123) -/

/-- The tick at which a sample begun at tick `pos` reads `RASTER_LO`. -/
def readTick (order : ReadOrder) (pos : Nat) (p : Nat × Nat) : Nat :=
  match order with
  | .hiFirst => pos + p.1
  | .loFirst => pos

theorem readTick_next (order : ReadOrder) (pos : Nat) (p q : Nat × Nat) :
    readTick order (pos + p.1 + p.2) q = readTick order pos p + sampleGap order p q := by
  cases order
  · exact Nat.add_assoc _ _ _
  · exact Nat.add_assoc _ _ _

/-- Unless bit 8 differs between the reads of a 9-bit or or-ed sample, the sample shows the line of its low byte. -/
theorem viewOf_eq_untornSample {mode : Combine} {high low : Line}
    (h : mode = .low8 ∨ high.toNat / 256 = low.toNat / 256) : viewOf mode high low = untornSample mode low := by
  rcases h with rfl | h
  · rfl
  · have hbit : high.extractLsb' 8 1 = low.extractLsb' 8 1 :=
      BitVec.eq_of_toNat_eq (by rw [lineBit8_toNat, lineBit8_toNat, h])
    rw [viewOf, hbit, untornSample]

theorem sampleAt_of_clean {c : Config} (hc : ConfigWf c) {pos : Nat} {p : Nat × Nat}
    (h : c.combine = .low8 ∨ bit8At c pos = bit8At c (pos + p.1)) :
    sampleAt c pos p = untornSample c.combine (lineAt c (readTick c.readOrder pos p)) := by
  rw [bit8At, bit8At, ← lineAt_toNat hc, ← lineAt_toNat hc] at h
  rw [sampleAt]
  cases c.readOrder
  · exact viewOf_eq_untornSample h
  · exact viewOf_eq_untornSample (h.imp_right Eq.symm)

/-! ### When a sample falls in the low lines and in the window (70_reset_and_hazards.md R170) -/

/-- The poll bound fits the low lines of `W_PHASE1`, and the window of `W_PHASE2` in every mode. -/
def PollFits (c : Config) (bound : Nat) : Prop :=
  bound ≤ c.tLow ∧ c.tBlank + bound ≤ c.lines ∧ (c.combine ≠ .nine → c.tBlank + bound ≤ 256)

theorem pollFits_of_pollBound {c : Config} {bound : Nat} (hc : ConfigWf c) (hpoll : PollBound c bound)
    (hshort : PollFitsShortFrame c bound) : PollFits c bound := by
  obtain ⟨-, hle⟩ := hpoll
  obtain ⟨hlow, hwindow⟩ := Nat.le_min.1 hle
  obtain ⟨-, -, -, -, -, hlines, -, -, -, h8⟩ := hc
  by_cases hmode : c.combine = .nine
  · simp only [windowWidth, hmode] at hwindow
    exact ⟨hlow, by omega, fun h => absurd hmode h⟩
  · obtain ⟨htop, -⟩ := h8 hmode
    have hwindow8 : bound ≤ 256 - c.tBlank := by
      unfold windowWidth at hwindow
      split at hwindow
      · next hnine => exact absurd hnine hmode
      · exact hwindow
      · exact hwindow
    have hframe := hshort hmode
    exact ⟨hlow, by omega, fun _ => by omega⟩

section
variable {c : Config} {bound frame e : Nat} (hc : ConfigWf c) (hfits : PollFits c bound)
include hc

/-- The line of a tick of frame `frame`. -/
theorem lineAt_toNat_of_frame {k : Nat} (hk : k < c.lines) : (lineAt c (c.lines * frame + k)).toNat = k := by
  rw [lineAt_toNat hc, Nat.mul_add_mod, Nat.mod_eq_of_lt hk]

/-- A clean sample of the first `T_LOW` lines of a frame is below `T_LOW`. -/
theorem untornSample_low (hfrom : c.lines * frame ≤ e) (hto : e < c.lines * frame + c.tLow) :
    (untornSample c.combine (lineAt c e)).toNat < c.tLow := by
  have hwf := hc
  obtain ⟨-, -, -, -, hlow, hlines, -, -, -, h8⟩ := hwf
  obtain ⟨k, rfl⟩ := Nat.exists_eq_add_of_le hfrom
  have hline := lineAt_toNat_of_frame (frame := frame) hc (k := k) (by omega)
  by_cases hmode : c.combine = .nine
  · rw [hmode, untornSample_nine, hline]
    omega
  · obtain ⟨htop, -⟩ := h8 hmode
    rw [untornSample_of_lt _ (by omega), hline]
    omega

include hfits

/-- A clean sample of the first lines from `T_BLANK` on, as many as the poll bound, is at or past `T_BLANK`. -/
theorem untornSample_blank (hfrom : c.lines * frame + c.tBlank ≤ e) (hto : e < c.lines * frame + c.tBlank + bound) :
    c.tBlank ≤ (untornSample c.combine (lineAt c e)).toNat := by
  obtain ⟨-, hwindow, hwindow8⟩ := hfits
  obtain ⟨k, rfl⟩ := Nat.exists_eq_add_of_le (Nat.le_of_add_right_le hfrom)
  have hline := lineAt_toNat_of_frame (frame := frame) hc (k := k) (by omega)
  rw [← not_lt, untornSample_lt_tBlank_iff hc (by omega), hline]
  rintro (hbefore | ⟨hmode, hpast⟩)
  · omega
  · have := hwindow8 hmode
    omega

end

/-! ### `WAITF` completes (70_reset_and_hazards.md R170) -/

/-- The tick before which each loop of a wait takes its next sample, frame `frame` being the first to begin after the
test sample: before the frame begins, or at most one poll after it began, or at most one poll after its line `T_BLANK`. -/
def deadline (c : Config) (bound frame : Nat) : WaitPhase → Nat
  | .test => c.lines * frame
  | .phase1 => c.lines * frame + bound
  | .phase2 => c.lines * frame + c.tBlank + bound

theorem deadline_le (c : Config) (bound frame : Nat) (w : WaitPhase) :
    deadline c bound frame w ≤ c.lines * frame + c.tBlank + bound := by
  cases w with
  | test => exact Nat.le_add_right_of_le (Nat.le_add_right _ _)
  | phase1 => exact Nat.add_le_add_right (Nat.le_add_right _ _) _
  | phase2 => exact le_rfl

/-- No sample leads back into `W_TEST`. -/
theorem le_deadline_loopAfterSample (c : Config) (bound frame : Nat) (w : WaitPhase) (b : State) :
    c.lines * frame + bound ≤ deadline c bound frame (loopAfterSample w b) := by
  have hne : loopAfterSample w b ≠ .test := by
    unfold loopAfterSample
    split
    · split <;> exact nofun
    · split <;> exact nofun
    · exact nofun
  cases hw : loopAfterSample w b with
  | test => exact absurd hw hne
  | phase1 => exact le_rfl
  | phase2 => exact Nat.add_le_add_right (Nat.le_add_right _ _) _

/-- A clean sample taken in time and not the last is followed by one in time: `W_PHASE1` is left at the first sample of
the new frame, and `W_PHASE2` at the first from its line `T_BLANK` on. -/
theorem next_in_time {c : Config} {bound frame e gap : Nat} {w : WaitPhase} {b : State} (hc : ConfigWf c)
    (hfits : PollFits c bound) (hcfg : b.cfg = c) (hl : b.l = untornSample c.combine (lineAt c e))
    (he : e < deadline c bound frame w) (hgo : completesWait w b = false) (hgap : gap ≤ bound) :
    e + gap < deadline c bound frame (loopAfterSample w b) := by
  have hafter := le_deadline_loopAfterSample c bound frame w b
  have hfits' := hfits
  obtain ⟨hbound, -, -⟩ := hfits'
  rcases lt_or_ge e (c.lines * frame) with hbefore | hfrom
  · omega
  · cases w with
    | test => exact absurd he (not_lt.2 hfrom)
    | phase1 =>
      have he' : e < c.lines * frame + bound := he
      have hlow : b.l.toNat < b.cfg.tLow := by
        rw [hl, hcfg]
        exact untornSample_low hc hfrom (by omega)
      rw [loopAfterSample, if_pos hlow, deadline]
      obtain ⟨-, -, -, -, hle, -⟩ := hc
      omega
    | phase2 =>
      have hbefore : e < c.lines * frame + c.tBlank := by
        by_contra hblank
        have hdone : completesWait .phase2 b = true := by
          rw [completesWait_iff, hcfg, hl]
          exact ⟨rfl, untornSample_blank hc hfits (not_lt.1 hblank) he⟩
        rw [hgo] at hdone
        cases hdone
      exact Nat.add_lt_add_of_lt_of_le hbefore hgap

/-- `WAITF` has completed on a sample at or past `T_BLANK`, with `rest` still to come. -/
def WaitfDone (c : Config) (rest : List CmdWord) (t : State) : Prop :=
  t.busy = false ∧ t.host = rest ∧ t.hist.head? = some (.completed .waitf) ∧ c.tBlank ≤ t.l.toNat

theorem waitfDone_of_completes {c : Config} {rest : List CmdWord} {w : WaitPhase} {b : State} (hcfg : b.cfg = c)
    (hhost : b.host = rest) (hdone : completesWait w b = true) :
    WaitfDone c rest (rasterTicks (complete .waitf b)) := by
  obtain ⟨-, hblank⟩ := (completesWait_iff w b).1 hdone
  exact ⟨by simp, by simpa using hhost, by simp, by simpa [hcfg] using hblank⟩

/-- A wait in time completes on one of its samples, if they go on to the last deadline. -/
theorem AtSample.completes {c : Config} {rest : List CmdWord} {bound frame pos : Nat} {w : WaitPhase} {p : Nat × Nat}
    {ps : List (Nat × Nat)} {s : State} (h : AtSample c rest w pos (p :: ps) s) (hc : ConfigWf c)
    (hfits : PollFits c bound) (hclean : cleanSamples c pos (p :: ps) = true)
    (hgaps : ∀ k ∈ sampleGaps c.readOrder (p :: ps), k ≤ bound)
    (htime : readTick c.readOrder pos p < deadline c bound frame w)
    (hlong : c.lines * frame + c.tBlank + bound ≤
      readTick c.readOrder pos p + (sampleGaps c.readOrder (p :: ps)).sum) :
    ∃ j t, j < (p :: ps).length ∧ Host.Core.run Sys2Proof.core (2 * (j + 1)) s = .next t ∧ WaitfDone c rest t ∧
      readTick c.readOrder pos p + ((sampleGaps c.readOrder (p :: ps)).take j).sum <
        c.lines * frame + c.tBlank + bound := by
  induction ps generalizing p pos w s with
  | nil => exact absurd (deadline_le c bound frame w) (not_le.2 (htime.trans_le' hlong))
  | cons q ps ih =>
    rw [cleanSamples, Bool.and_eq_true, Bool.or_eq_true, decide_eq_true_eq, decide_eq_true_eq] at hclean
    obtain ⟨hfirst, hlater⟩ := hclean
    obtain ⟨b, hcfg, hhost, hl, hdone, hgo⟩ := h.run_sample hc
    cases hcompletes : completesWait w b with
    | true =>
      exact ⟨0, _, Nat.succ_pos _, hdone hcompletes, waitfDone_of_completes hcfg hhost hcompletes,
        htime.trans_le (deadline_le c bound frame w)⟩
    | false =>
      obtain ⟨t, hrun, ht⟩ := hgo hcompletes
      rw [sampleGaps_cons_cons, List.forall_mem_cons] at hgaps
      obtain ⟨hgap, hgaps⟩ := hgaps
      rw [sampleAt_of_clean hc hfirst] at hl
      have htime' := next_in_time hc hfits hcfg hl htime hcompletes hgap
      rw [sampleGaps_cons_cons, List.sum_cons, ← Nat.add_assoc, ← readTick_next] at hlong
      rw [← readTick_next] at htime'
      obtain ⟨j, u, hj, hrun', hu, hsum⟩ := ih ht hlater hgaps htime' hlong
      refine ⟨j + 1, u, Nat.succ_lt_succ hj, ?_, hu, ?_⟩
      · rw [Nat.mul_succ, Nat.add_comm, run_add hrun, hrun']
      · rwa [sampleGaps_cons_cons, List.take_succ_cons, List.sum_cons, ← Nat.add_assoc, ← readTick_next]

/-- Settles O35: the deadlines are those of the first frame to begin after the test sample, and the last of them is at
most two frames after it. -/
theorem waitfCompletesWithinTwoFrames : Obligations.WaitfCompletesWithinTwoFrames := by
  unfold Obligations.WaitfCompletesWithinTwoFrames
  intro s rest ps bound hc hline hb hh hs htwo hgaps hpoll hshort hclean
  have hpos := lines_pos hc
  have hfits := pollFits_of_pollBound hc hpoll hshort
  cases ps with
  | nil =>
    simp only [sampleGaps, List.sum_nil] at htwo
    omega
  | cons p ps =>
    obtain ⟨u, hu, hrun⟩ := run_accepted_waitf hc hline hb hh hs
    generalize he : readTick s.cfg.readOrder s.line.toNat p = e
    have hnext : e < s.cfg.lines * (e / s.cfg.lines + 1) := Nat.lt_mul_div_succ e hpos
    have hlast : s.cfg.lines * (e / s.cfg.lines + 1) + s.cfg.tBlank + bound ≤ e + 2 * s.cfg.lines := by
      have := Nat.mul_div_le e s.cfg.lines
      obtain ⟨-, hwindow, -⟩ := hfits
      rw [Nat.mul_succ]
      omega
    obtain ⟨j, t, hj, hrun', ⟨hbusy, hhost, hhist, hblank⟩, hsum⟩ :=
      hu.completes hc hfits hclean hgaps (he.trans_lt hnext) (hlast.trans (by omega))
    exact ⟨j, t, hj, (hrun _).trans hrun', hbusy, hhost, hhist, hblank, by omega⟩

/-! ### The writes of an open commit window (70_reset_and_hazards.md R167) -/

/-- A window that is not yet open has no writes. -/
theorem updateWrites_of_gateReturns_lt {k : Nat} {h : List Event} (hk : gateReturns h < k) : updateWrites k h = [] := by
  induction h with
  | nil => rfl
  | cons e older ih =>
    rw [gateReturns_cons] at hk
    have hold := ih (by omega)
    cases e with
    | accepted i => exact hold
    | completed i => exact hold
    | bus rw addr d line frame =>
      cases rw with
      | read => exact hold
      | write => rw [updateWrites, if_neg (by omega), hold]

/-- The frame and the line `w` are those of tick `p`, counted from line 0 of frame `frame`. -/
def OnTick (c : Config) (frame p : Nat) (w : Nat × Line) : Prop :=
  w.1 = frame + p / c.lines ∧ w.2.toNat = p % c.lines

theorem onTick_of_lt {c : Config} {w : Nat × Line} (h : w.2.toNat < c.lines) : OnTick c w.1 w.2.toNat w :=
  ⟨by rw [Nat.div_eq_of_lt h, Nat.add_zero], (Nat.mod_eq_of_lt h).symm⟩

theorem onTick_rasterTicks {s : State} {c : Config} {frame p k : Nat} {rest : List Nat} (hc : ConfigWf c)
    (hcfg : s.cfg = c) (hs : s.sched = k :: rest) (h : OnTick c frame p (s.frame, s.line)) :
    OnTick c frame (p + k) ((rasterTicks s).frame, (rasterTicks s).line) := by
  obtain ⟨hframe, hline⟩ := h
  refine ⟨?_, rasterTicks_line_toNat hc hcfg hline hs⟩
  subst hcfg
  obtain ⟨-, -, -, -, -, hlines, hmax, -⟩ := hc
  have hpos : 0 < s.cfg.lines := by omega
  have hlt : s.line.toNat < s.cfg.lines := hline ▸ Nat.mod_lt _ hpos
  have hsplit : p + k = s.cfg.lines * (p / s.cfg.lines) + (p % s.cfg.lines + k) := by
    rw [← Nat.add_assoc, Nat.div_add_mod]
  have hticks : (rasterTicks s).frame = s.frame + framesAfter s.cfg.lines s.line k := by rw [rasterTicks_cons hs]; rfl
  rw [hsplit, Nat.mul_add_div hpos, hticks, framesAfter_eq hmax hlt, hline, ← Nat.add_assoc]
  exact congrArg (· + _) hframe

/-- A SEQ step makes its bus write, if any, on the present line of the present frame; it leaves the schedule and the line
to RASTER. -/
theorem exec_updateWrites {i : Instr} {s u : State} (h : exec i s = .next u) :
    u.cfg = s.cfg ∧ u.frame = s.frame ∧ u.line = s.line ∧ u.sched = s.sched ∧
      ∀ k, ∀ w ∈ updateWrites k u.hist, w ∈ updateWrites k s.hist ∨ w = (s.frame, s.line) := by
  obtain ⟨hcfg, hline, hframe, -, hsched, -⟩ := exec_frame h
  exact ⟨hcfg, hframe, hline, hsched, fun k w hw => mem_updateWrites_of_exec h hw⟩

/-- The same of SEQ's part of a step, which may do nothing or accept a command first. -/
theorem step_updateWrites {s t : State} (h : step s = .next t) :
    ∃ u, t = rasterTicks u ∧ u.cfg = s.cfg ∧ u.frame = s.frame ∧ u.line = s.line ∧ u.sched = s.sched ∧
      ∀ k, ∀ w ∈ updateWrites k u.hist, w ∈ updateWrites k s.hist ∨ w = (s.frame, s.line) := by
  obtain ⟨u, rfl, hu⟩ := step_eq_next h
  refine ⟨u, rfl, ?_⟩
  rcases hu with ⟨-, -, rfl⟩ | ⟨-, w, rest, i, -, -, hexec⟩ | ⟨-, i, -, hexec⟩
  · exact ⟨rfl, rfl, rfl, rfl, fun k w hw => .inl hw⟩
  · exact (exec_updateWrites hexec :)
  · exact exec_updateWrites hexec

/-- Every write that a run of `m` scheduled steps adds falls on the tick of one of its steps. -/
theorem mem_updateWrites_of_run {c : Config} (hc : ConfigWf c) {frame k m : Nat} {w : Nat × Line} {s t : State} {p : Nat}
    (hcfg : s.cfg = c) (htick : OnTick c frame p (s.frame, s.line)) (hm : m ≤ s.sched.length)
    (hrun : Host.Core.run Sys2Proof.core m s = .next t) (hw : w ∈ updateWrites k t.hist) :
    w ∈ updateWrites k s.hist ∨ ∃ j < m, OnTick c frame (p + (s.sched.take j).sum) w := by
  induction m generalizing s p with
  | zero =>
    cases hrun
    exact .inl hw
  | succ m ih =>
    obtain ⟨n, rest, hs⟩ := List.exists_cons_of_length_pos (Nat.zero_lt_of_lt hm)
    rw [hs] at hm
    simp only [Host.Core.run] at hrun
    split at hrun
    · next s' hstep =>
      obtain ⟨u, rfl, hucfg, huframe, huline, husched, hwrites⟩ := step_updateWrites hstep
      have hleft : (rasterTicks u).sched = rest := by rw [rasterTicks_cons (husched.trans hs)]; rfl
      have htick' := onTick_rasterTicks hc (hucfg.trans hcfg) (husched.trans hs) (huframe ▸ huline ▸ htick)
      rcases ih (by rw [rasterTicks_cfg, hucfg, hcfg]) htick' (by rw [hleft]; exact Nat.le_of_succ_le_succ hm) hrun with
        hold | ⟨j, hj, hon⟩
      · rw [rasterTicks_hist] at hold
        rcases hwrites k w hold with hold | rfl
        · exact .inl hold
        · exact .inr ⟨0, Nat.succ_pos m, htick⟩
      · rw [hleft] at hon
        refine .inr ⟨j + 1, Nat.succ_lt_succ hj, ?_⟩
        rwa [hs, List.take_succ_cons, List.sum_cons, ← Nat.add_assoc]
    · cases hrun
    · cases hrun

/-- Settles O58: each write falls fewer ticks after the present line than lines are left of the blanking interval. -/
theorem updateEndingBeforeScanOutIsInOneBlank : Obligations.UpdateEndingBeforeScanOutIsInOneBlank := by
  unfold Obligations.UpdateEndingBeforeScanOutIsInOneBlank
  intro s t m hc hline hlast hm hticks hrun
  have hin : inBlank s.cfg s.line.toNat = true := by
    rw [inBlank_iff]
    unfold blankLeft at hticks
    split at hticks <;> omega
  obtain ⟨b, -, hstays⟩ := stays_in_blankingInterval_iff hc s.frame hin
  have hnew : updateWrites (gateReturns s.hist) s.hist = [] := by
    obtain ⟨older, hhist⟩ := List.head?_eq_some_iff.1 hlast
    rw [hhist, updateWrites, updateWrites_of_gateReturns_lt]
    simp [gateReturns_cons]
  refine ⟨b, fun w hw => ?_⟩
  rcases mem_updateWrites_of_run hc rfl (onTick_of_lt hline) hm hrun hw with hold | ⟨j, hj, hframe, hwline⟩
  · simp [hnew] at hold
  · rw [hframe, hwline, hstays]
    have hle : (s.sched.take j).sum ≤ (s.sched.take (m - 1)).sum :=
      ((List.take_sublist_take_left (by omega)).sum_le_sum fun _ _ => Nat.zero_le _)
    exact lt_of_le_of_lt hle hticks

end Sys2Proof.Machine
end
